-- ==== Sys2Proof/Word.lean ====
section
/-! DEFINITION. The one word type of the machine: registers, memory cells, addresses and encoded bytes are all
8 bits wide (spec R5, R7, R25). -/

namespace Sys2Proof

/-- An 8-bit unsigned value: register contents, a memory cell, an address, an instruction byte (R7). -/
abbrev Byte := BitVec 8

end Sys2Proof
end

