-- ==== Sys2Proof/Syntax.lean ====
section
/-! DEFINITION. The instructions of CA-13, one constructor per row of spec/opcode_table.json (R47), and the register
names. Operand bytes stand in an instruction as they were fetched: whether a register operand names a register is
`Instr.wellFormed` (WellFormed.lean) and the InvalidRegister check of R65. -/

namespace Sys2Proof

/-- The eight registers `x[0]` to `x[7]`, spelled R0 to R7 (R12). -/
inductive Reg where
  | R0 | R1 | R2 | R3 | R4 | R5 | R6 | R7
  deriving DecidableEq, Repr

/-- The mnemonics of the opcode map (R47). -/
inductive Mnemonic where
  | hlt | ldi | prn | mul | push | pop | call | ret | add | cmp | jump | jeq | jne
  deriving DecidableEq, Repr

/-- An instruction with its operand bytes. `a` is operand_a and `b` operand_b of R45; `imm` is LDI's 8-bit immediate
(R46). -/
inductive Instr where
  /-- HLT: halt (R75). -/
  | hlt
  /-- LDI Ra, imm8: load immediate (R76). -/
  | ldi (a imm : Byte)
  /-- PRN Ra: print register (R77). -/
  | prn (a : Byte)
  /-- MUL Ra, Rb: multiply registers (R72). -/
  | mul (a b : Byte)
  /-- PUSH Ra: push register (R79). -/
  | push (a : Byte)
  /-- POP Ra: pop into register (R80). -/
  | pop (a : Byte)
  /-- CALL Ra: call subroutine (R83). -/
  | call (a : Byte)
  /-- RET: return from subroutine (R84). -/
  | ret
  /-- ADD Ra, Rb: add registers (R71). -/
  | add (a b : Byte)
  /-- CMP Ra, Rb: compare registers (R73). -/
  | cmp (a b : Byte)
  /-- JUMP Ra (R87). -/
  | jump (a : Byte)
  /-- JEQ Ra: jump if equal (R88). -/
  | jeq (a : Byte)
  /-- JNE Ra: jump if not equal (R89). -/
  | jne (a : Byte)
  deriving DecidableEq, Repr

/-- The row of the opcode map an instruction belongs to. -/
def Instr.mnemonic : Instr → Mnemonic
  | .hlt => .hlt
  | .ldi _ _ => .ldi
  | .prn _ => .prn
  | .mul _ _ => .mul
  | .push _ => .push
  | .pop _ => .pop
  | .call _ => .call
  | .ret => .ret
  | .add _ _ => .add
  | .cmp _ _ => .cmp
  | .jump _ => .jump
  | .jeq _ => .jeq
  | .jne _ => .jne

/-- The operand bytes an instruction uses, operand_a first (the operand columns of R45). -/
def Instr.operands : Instr → List Byte
  | .hlt => []
  | .ldi a imm => [a, imm]
  | .prn a => [a]
  | .mul a b => [a, b]
  | .push a => [a]
  | .pop a => [a]
  | .call a => [a]
  | .ret => []
  | .add a b => [a, b]
  | .cmp a b => [a, b]
  | .jump a => [a]
  | .jeq a => [a]
  | .jne a => [a]

/-- The operand bytes an instruction reads as register indices, in the order they are checked (R65, `regOperands` of
R67). LDI's immediate is not one of them. -/
def Instr.regOperands : Instr → List Byte
  | .hlt => []
  | .ldi a _ => [a]
  | .prn a => [a]
  | .mul a b => [a, b]
  | .push a => [a]
  | .pop a => [a]
  | .call a => [a]
  | .ret => []
  | .add a b => [a, b]
  | .cmp a b => [a, b]
  | .jump a => [a]
  | .jeq a => [a]
  | .jne a => [a]

end Sys2Proof
end

