-- ==== Sys2Proof/WellFormed.lean ====
section
/-! DEFINITION. The one check an instruction's syntax must pass: every operand byte it reads as a register index names
a register, that is, it is below 8 (R45). LDI's immediate is any byte (R46). -/

namespace Sys2Proof

/-- A byte is a register index when it is below 8 (R45). -/
def isRegIndex (b : Byte) : Bool := b.toNat < 8

/-- Every register operand is a register index. -/
def Instr.wellFormed (i : Instr) : Bool := i.regOperands.all isRegIndex

/-- The first operand byte, in checking order, that names no register (R65). -/
def Instr.badOperand (i : Instr) : Option Byte := i.regOperands.find? (fun b => !isRegIndex b)

end Sys2Proof
end

