-- ==== Sys2Proof/Decode.lean ====
section
/-! DEFINITION. The opcode map (R47), the fields of the opcode byte (R39 to R42), the decoder and the encoder. Decoding
is total: an opcode byte outside the map is rejected by name (R49, R64). -/

namespace Sys2Proof

/-- Field AA of the opcode byte, `IR[7:6]`: the operand count (R39, R40). -/
def fieldAA (ir : Byte) : Nat := (ir.extractLsb' 6 2).toNat

/-- Field B of the opcode byte, `IR[5]`: the instruction takes the ALU path (R39, R41). -/
def fieldB (ir : Byte) : Bool := ir.getLsbD 5

/-- Field C of the opcode byte, `IR[4]`: the instruction sets `pc` itself (R39, R42). -/
def fieldC (ir : Byte) : Bool := ir.getLsbD 4

/-- Field DDDD of the opcode byte, `IR[3:0]`; it does not identify an instruction alone (R43). -/
def fieldDDDD (ir : Byte) : Nat := (ir.extractLsb' 0 4).toNat

/-- One row of the opcode map. -/
structure OpcodeRow where
  opcode : Byte
  mnemonic : Mnemonic
  deriving DecidableEq, Repr

/-- The complete opcode map, in the order of R47. -/
def opcodeMap : List OpcodeRow :=
  [⟨0b00000001#8, .hlt⟩, ⟨0b10000010#8, .ldi⟩, ⟨0b01000111#8, .prn⟩, ⟨0b10100010#8, .mul⟩,
   ⟨0b01000101#8, .push⟩, ⟨0b01000110#8, .pop⟩, ⟨0b01010000#8, .call⟩, ⟨0b00010001#8, .ret⟩,
   ⟨0b10100000#8, .add⟩, ⟨0b10100111#8, .cmp⟩, ⟨0b01010100#8, .jump⟩, ⟨0b01010101#8, .jeq⟩,
   ⟨0b01010110#8, .jne⟩]

/-- Phase 3 of a step (R64): the mnemonic an opcode byte selects, by the exact value of the whole byte (R43, R47). -/
def lookupOpcode (ir : Byte) : Option Mnemonic :=
  (opcodeMap.find? (fun row => row.opcode == ir)).map (fun row => row.mnemonic)

/-- The instruction of a mnemonic with the two fetched operand bytes; a byte the instruction does not use is ignored
(R44, R45). -/
def buildInstr (m : Mnemonic) (opA opB : Byte) : Instr :=
  match m with
  | .hlt => .hlt
  | .ldi => .ldi opA opB
  | .prn => .prn opA
  | .mul => .mul opA opB
  | .push => .push opA
  | .pop => .pop opA
  | .call => .call opA
  | .ret => .ret
  | .add => .add opA opB
  | .cmp => .cmp opA opB
  | .jump => .jump opA
  | .jeq => .jeq opA
  | .jne => .jne opA

/-- Why the decoder rejects three fetched bytes. -/
inductive DecodeError where
  /-- The opcode byte is none of the 13 of R47 (R49). -/
  | unknownOpcode (ir : Byte)
  deriving DecidableEq, Repr

/-- The decoder: the three bytes every step fetches (R62) to an instruction or a rejection. -/
def decode (ir opA opB : Byte) : Except DecodeError Instr :=
  match lookupOpcode ir with
  | some m => .ok (buildInstr m opA opB)
  | none => .error (.unknownOpcode ir)

/-- The decoder on a byte sequence: its first three bytes, missing ones read as zero. -/
def decodeBytes (bytes : List Byte) : Except DecodeError Instr :=
  decode (bytes.getD 0 0#8) (bytes.getD 1 0#8) (bytes.getD 2 0#8)

/-- The opcode byte of a mnemonic (R47). -/
def Mnemonic.opcode : Mnemonic → Byte
  | .hlt => 0x01#8
  | .ldi => 0x82#8
  | .prn => 0x47#8
  | .mul => 0xA2#8
  | .push => 0x45#8
  | .pop => 0x46#8
  | .call => 0x50#8
  | .ret => 0x11#8
  | .add => 0xA0#8
  | .cmp => 0xA7#8
  | .jump => 0x54#8
  | .jeq => 0x55#8
  | .jne => 0x56#8

/-- The length of a mnemonic's instructions, 1 + AA bytes (R38, R50). -/
def Mnemonic.length (m : Mnemonic) : Nat := 1 + fieldAA m.opcode

/-- The encoder: the opcode byte and then the operand bytes the instruction uses (R38). -/
def encode (i : Instr) : List Byte := i.mnemonic.opcode :: i.operands

/-- The register a byte names, none for a byte of 8 or more (R45). -/
def asReg (b : Byte) : Option Reg :=
  match b.toNat with
  | 0 => some .R0
  | 1 => some .R1
  | 2 => some .R2
  | 3 => some .R3
  | 4 => some .R4
  | 5 => some .R5
  | 6 => some .R6
  | 7 => some .R7
  | _ => none

/-- The operand byte that names a register (R45). -/
def Reg.byte : Reg → Byte
  | .R0 => 0#8
  | .R1 => 1#8
  | .R2 => 2#8
  | .R3 => 3#8
  | .R4 => 4#8
  | .R5 => 5#8
  | .R6 => 6#8
  | .R7 => 7#8

/-- The bytes of an instruction word of spec/opcode_table.json, the opcode byte in bits 7..0 and each operand byte
above it; bits from `nbits` up are zero. Always three bytes, the longest instruction (R5). -/
def tableBytes (nbits w : Nat) : List Byte :=
  let v := w % 2 ^ nbits
  [BitVec.ofNat 8 v, BitVec.ofNat 8 (v / 2 ^ 8), BitVec.ofNat 8 (v / 2 ^ 16)]

/-- The instruction the decoder reads from an instruction word numbered as the opcode table numbers it. -/
def decodeTableWord (nbits w : Nat) : Option Instr := (decodeBytes (tableBytes nbits w)).toOption

end Sys2Proof
end

