-- ==== Sys2Proof/Config.lean ====
section
/-! DEFINITION. The parameters the spec fixes for the hardware (R5) and the one free value of the model. -/

namespace Sys2Proof

/-- `SP_RESET` of R5: the stack pointer right after reset. -/
def Config.spReset : Byte := 0xF4#8

/-- `PC_RESET` of R5: the entry point. -/
def Config.pcReset : Byte := 0x00#8

/-- `MEM_SIZE` of R5: the number of memory cells. -/
def Config.memSize : Nat := 256

/-- `LOAD_BASE` of R5: the address at which the load port stores its first byte. -/
def Config.loadBase : Byte := 0x00#8

/-- What an unlisted memory cell holds: the reset contents of memory (R23, R106; log entry 3). -/
def Config.unlistedCell : Byte := 0x00#8

/-- FREE VALUE (log entry 2). What a step leaves in a latch, which R22 leaves unspecified: `latchResidue before k` for the
whole state `before` the step and the latch `k` (0 for `IR`, 1 for `opA`, 2 for `opB`). It has no body, so nothing can be
proved of it. The state's type `σ` is a parameter only because it is declared later. -/
opaque Config.latchResidue {σ : Type} (before : σ) (k : Fin 3) : Byte

end Sys2Proof
end

