-- ==== Sys2Proof/Machine/State.lean ====
section
/-! DEFINITION. The machine's state as plain data (R24), the state after reset (R106), and the reasons a step could
stop outside the state. -/

namespace Sys2Proof.Machine

open Sys2Proof

/-- The register file, one field per register (R12); `r7` is the stack pointer (R13). -/
structure Regs where
  r0 : Byte
  r1 : Byte
  r2 : Byte
  r3 : Byte
  r4 : Byte
  r5 : Byte
  r6 : Byte
  r7 : Byte
  deriving DecidableEq, Repr

/-- The three compare flags, three separate bits (R18). -/
structure Flags where
  E : Bool
  L : Bool
  G : Bool
  deriving DecidableEq, Repr

/-- The execution mode (R20). The spec gives its values names and no bit patterns (log entry 9). -/
inductive Mode where
  | halted
  | running
  | faulted
  deriving DecidableEq, Repr

/-- The four values of `fault_code` (R21, R90). -/
inductive FaultCode where
  | none
  | unknownOpcode
  | unsupportedALUOp
  | invalidRegister
  deriving DecidableEq, Repr

/-- The four fault status fields (R21). -/
structure FaultStatus where
  code : FaultCode
  pc : Byte
  ir : Byte
  operand : Byte
  deriving DecidableEq, Repr

/-- The latches of a step (R22). They mean something only inside a step. -/
structure Latches where
  ir : Byte
  opA : Byte
  opB : Byte
  deriving DecidableEq, Repr

/-- Memory as the list of cells that differ from the reset contents, in the canonical form `Memory.wf`. -/
abbrev Memory := List Host.Cell

/-- The canonical form's tail condition: every cell of `m` lies at `lo` or above, addresses strictly rise, every
address is one of the 256 cells (R23), and no listed cell holds what an unlisted one reads as. -/
def Memory.wfFrom : Nat → Memory → Bool
  | _, [] => true
  | lo, (addr, v) :: rest =>
    decide (lo ≤ addr) && decide (addr < Config.memSize) && decide (v ≠ Config.unlistedCell) &&
      Memory.wfFrom (addr + 1) rest

/-- The canonical form of memory, in which equal memories are equal lists. -/
def Memory.wf (m : Memory) : Bool := Memory.wfFrom 0 m

/-- The machine's state: exactly the rows of the table R24 refers to, and nothing else. -/
structure State where
  /-- `x[0]` to `x[7]` (R12, R13). -/
  regs : Regs
  /-- The program counter (R16). -/
  pc : Byte
  /-- `E`, `L`, `G` (R18). -/
  flags : Flags
  /-- Halted, Running or Faulted (R20). -/
  mode : Mode
  /-- `fault_code`, `fault_pc`, `fault_ir`, `fault_operand` (R21). -/
  fault : FaultStatus
  /-- The 256 memory cells (R23). -/
  mem : Memory
  /-- `IR`, `opA`, `opB` (R22). -/
  latches : Latches
  /-- The output port's events, oldest first (R24, R58). -/
  output : List Byte
  deriving DecidableEq, Repr

/-- The fault status when no fault was raised (R21, R106). -/
def FaultStatus.clear : FaultStatus := ⟨.none, 0x00#8, 0x00#8, 0x00#8⟩

/-- The machine right after reset (R106). The latches' value is the model's choice (log entry 1). -/
def State.reset : State where
  regs := ⟨0x00#8, 0x00#8, 0x00#8, 0x00#8, 0x00#8, 0x00#8, 0x00#8, Config.spReset⟩
  pc := Config.pcReset
  flags := ⟨false, false, false⟩
  mode := .halted
  fault := FaultStatus.clear
  mem := []
  latches := ⟨0x00#8, 0x00#8, 0x00#8⟩
  output := []

/-- Reasons for the machine to stop with no next state: there are none. The spec gives the state each of its faults
leaves (R96), so a fault is a next state in mode Faulted, and no other condition faults (R90); log entry 11. Safe: no
step is cut short by it. -/
inductive Fault where
  deriving DecidableEq, Repr

/-- Reasons the model has no meaning for an instruction. -/
inductive Refusal where
  /-- Raised by an arm of `exec` for an instruction without a meaning; no arm raises it. Safe: it stops the run. -/
  | notModelled (mnemonic : String)
  deriving DecidableEq, Repr

end Sys2Proof.Machine
end

