-- ==== Sys2Proof/Machine/Ops.lean ====
section
/-! DEFINITION. The operations every instruction is built from: register and memory access, fetch, the auto-advance,
fault entry and reset. -/

namespace Sys2Proof.Machine

open Sys2Proof

/-! ### Registers -/

/-- The value of a register in a register file (R12). -/
def Regs.get (x : Regs) : Reg → Byte
  | .R0 => x.r0
  | .R1 => x.r1
  | .R2 => x.r2
  | .R3 => x.r3
  | .R4 => x.r4
  | .R5 => x.r5
  | .R6 => x.r6
  | .R7 => x.r7

/-- A register file with one register written (R8). -/
def Regs.set (x : Regs) (r : Reg) (v : Byte) : Regs :=
  match r with
  | .R0 => { x with r0 := v }
  | .R1 => { x with r1 := v }
  | .R2 => { x with r2 := v }
  | .R3 => { x with r3 := v }
  | .R4 => { x with r4 := v }
  | .R5 => { x with r5 := v }
  | .R6 => { x with r6 := v }
  | .R7 => { x with r7 := v }

/-- `x[r]` (R8). -/
def State.reg (s : State) (r : Reg) : Byte := s.regs.get r

/-- `x[r] <- v` (R8). -/
def State.setReg (s : State) (r : Reg) (v : Byte) : State := { s with regs := s.regs.set r v }

/-- `sp`, another name for `x[7]` (R8, R13). -/
def State.sp (s : State) : Byte := s.reg .R7

/-- `sp <- (sp - 1) mod 256` (R26, R78). -/
def State.decSp (s : State) : State := s.setReg .R7 (s.sp - 1#8)

/-- `sp <- (sp + 1) mod 256` (R26, R78). -/
def State.incSp (s : State) : State := s.setReg .R7 (s.sp + 1#8)

/-! ### Memory -/

/-- The byte listed at an address, or the reset contents (R23). -/
def Memory.lookup : Memory → Nat → Byte
  | [], _ => Config.unlistedCell
  | (addr, v) :: rest, a => if addr = a then v else Memory.lookup rest a

/-- The list with cell `a` holding `v`, in canonical form if it was. -/
def Memory.put : Memory → Nat → Byte → Memory
  | [], a, v => if v = Config.unlistedCell then [] else [(a, v)]
  | (addr, w) :: rest, a, v =>
    if a < addr then
      if v = Config.unlistedCell then (addr, w) :: rest else (a, v) :: (addr, w) :: rest
    else if addr = a then
      if v = Config.unlistedCell then rest else (a, v) :: rest
    else (addr, w) :: Memory.put rest a v

/-- `MemRead(a, 1)` on memory alone (R8, R27). -/
def Memory.read (m : Memory) (a : Byte) : Byte := m.lookup a.toNat

/-- `MemWrite(a, 1, v)` on memory alone (R8, R27). -/
def Memory.write (m : Memory) (a : Byte) (v : Byte) : Memory := m.put a.toNat v

/-- `MemRead(a, 1)` (R8). -/
def State.memRead (s : State) (a : Byte) : Byte := s.mem.read a

/-- `MemWrite(a, 1, v)` (R8). -/
def State.memWrite (s : State) (a v : Byte) : State := { s with mem := s.mem.write a v }

/-- `bytes[i]` written to cell `base + i` for every `i`, in increasing order of `i` (R108). -/
def State.writeBytes (s : State) (base : Byte) : List Byte → State
  | [] => s
  | v :: rest => (s.memWrite base v).writeBytes (base + 1#8) rest

/-! ### Program counter, mode, output -/

/-- `pc <- target` (R8). -/
def State.setPc (s : State) (target : Byte) : State := { s with pc := target }

/-- `mode <- m` (R20). -/
def State.setMode (s : State) (m : Mode) : State := { s with mode := m }

/-- `Emit(v)`: one event appended to the output stream (R8, R58). -/
def State.emit (s : State) (v : Byte) : State := { s with output := s.output ++ [v] }

/-- Phase 4 of a step (R66): an instruction whose C bit is 0 advances `pc` by 1 + AA before its effect. -/
def State.autoAdvance (s : State) (m : Mnemonic) : State :=
  if fieldC m.opcode then s else s.setPc (s.pc + BitVec.ofNat 8 m.length)

/-! ### The step's latches -/

/-- Phase 1 of a step (R62): the three bytes at `pc`, `pc + 1` and `pc + 2`, each address modulo 256, are latched. -/
def State.fetch (s : State) : State :=
  { s with latches := ⟨s.memRead s.pc, s.memRead (s.pc + 1#8), s.memRead (s.pc + 2#8)⟩ }

/-- What a step from the state `before` leaves in the latches: a free value each (R22, log entry 2). -/
def State.latchResidue (before : State) : Latches :=
  ⟨Config.latchResidue before 0, Config.latchResidue before 1, Config.latchResidue before 2⟩

/-- The end of a step: the latches' content is unspecified from here on (R22), so they take `residue`. -/
def State.dropLatches (residue : Latches) (s : State) : State := { s with latches := residue }

/-! ### Faults -/

/-- The block's faults with what each records beside the address and the opcode byte (R90). -/
inductive FaultCause where
  | unknownOpcode
  | unsupportedALUOp
  | invalidRegister (operand : Byte)
  deriving DecidableEq, Repr

/-- The `fault_code` of a fault (R90). -/
def FaultCause.code : FaultCause → FaultCode
  | .unknownOpcode => .unknownOpcode
  | .unsupportedALUOp => .unsupportedALUOp
  | .invalidRegister _ => .invalidRegister

/-- The `fault_operand` of a fault (R90): 0 but for InvalidRegister. -/
def FaultCause.operand : FaultCause → Byte
  | .unknownOpcode => 0x00#8
  | .unsupportedALUOp => 0x00#8
  | .invalidRegister operand => operand

/-- The number of a fault code (R21, R90). -/
def FaultCode.bits : FaultCode → BitVec 2
  | .none => 0#2
  | .unknownOpcode => 1#2
  | .unsupportedALUOp => 2#2
  | .invalidRegister => 3#2

/-- Fault entry, for every fault (R96): the four fault fields are written, then the mode becomes Faulted. `addr` is the
address of the faulting instruction's opcode byte and `ir` that byte. -/
def State.takeFault (s : State) (cause : FaultCause) (addr ir : Byte) : State :=
  { s with fault := ⟨cause.code, addr, ir, cause.operand⟩, mode := .faulted }

/-- What a step does with bytes the decoder rejects (R64): UnknownOpcode at the unadvanced `pc`. -/
def State.rejectOpcode (s : State) : DecodeError → State
  | .unknownOpcode ir => s.takeFault .unknownOpcode s.pc ir

/-- `reset` (R106, R107), the only way out of Faulted (R98): the reset state, whatever the state was. -/
def State.resetAll (_ : State) : State := State.reset

/-! ### Outcomes -/

/-- A step executes an instruction only in mode Running (R56). -/
def State.executes (s : State) : Bool := s.mode = .running

/-- The end of a step that executed an instruction or raised a fault. -/
def endStep (residue : Latches) : Host.Outcome State Fault Refusal → Host.Outcome State Fault Refusal
  | .next s => .next (s.dropLatches residue)
  | .fault f => .fault f
  | .refused r => .refused r

end Sys2Proof.Machine
end

