-- ==== Sys2Proof/Machine/Flags.lean ====
section
/-! DEFINITION. The one flag computation of the instruction set: CMP's comparison (R73). ADD and MUL write no flag
(R70). -/

namespace Sys2Proof.Machine

open Sys2Proof

/-- The flags of the unsigned comparison of `x` with `y` (R73). -/
def compareFlags (x y : Byte) : Flags :=
  if x = y then ⟨true, false, false⟩
  else if x.toNat < y.toNat then ⟨false, true, false⟩
  else ⟨false, false, true⟩

/-- All three flags written (R19). -/
def State.setFlags (s : State) (f : Flags) : State := { s with flags := f }

end Sys2Proof.Machine
end

