-- ==== Sys2Proof/Machine/Operands.lean ====
section
/-! DEFINITION. The three operand shapes of R45: no register operand, operand_a a register index, both operands register
indices. Each runs phase 3b of the step (R65), then phase 4 (R66), then the instruction's effect (R67). -/

namespace Sys2Proof.Machine

open Sys2Proof

/-- InvalidRegister of the instruction at `pc` with the offending operand byte (R93); nothing was advanced yet. -/
def State.invalidRegister (s : State) (m : Mnemonic) (operand : Byte) : State :=
  s.takeFault (.invalidRegister operand) s.pc m.opcode

/-- An instruction without a register operand. -/
def withNoReg (m : Mnemonic) (effect : State → State) (s : State) : Host.Outcome State Fault Refusal :=
  .next (effect (s.autoAdvance m))

/-- An instruction whose operand_a is its one register index. -/
def withReg (m : Mnemonic) (a : Byte) (effect : Reg → State → State) (s : State) :
    Host.Outcome State Fault Refusal :=
  match asReg a with
  | some ra => .next (effect ra (s.autoAdvance m))
  | none => .next (s.invalidRegister m a)

/-- An instruction with two register indices; operand_a is checked first (R65, R95). -/
def withTwoRegs (m : Mnemonic) (a b : Byte) (effect : Reg → Reg → State → State) (s : State) :
    Host.Outcome State Fault Refusal :=
  match asReg a with
  | none => .next (s.invalidRegister m a)
  | some ra =>
    match asReg b with
    | none => .next (s.invalidRegister m b)
    | some rb => .next (effect ra rb (s.autoAdvance m))

end Sys2Proof.Machine
end

