-- ==== Sys2Proof/Machine/Alu.lean ====
section
/-! DEFINITION. The ALU (alu_8bit) and its instructions ADD, MUL and CMP (41_alu.md). -/

namespace Sys2Proof.Machine

open Sys2Proof

/-- The ALU (R70): it receives a mnemonic and two register indices. Any mnemonic but ADD, MUL and CMP is
UnsupportedALUOp (R74, R92), which no instruction reaches; `addr` is the instruction's address. -/
def alu (m : Mnemonic) (addr : Byte) (ra rb : Reg) (s : State) : State :=
  match m with
  | .add => s.setReg ra (s.reg ra + s.reg rb)
  | .mul => s.setReg ra (s.reg ra * s.reg rb)
  | .cmp => s.setFlags (compareFlags (s.reg ra) (s.reg rb))
  | .hlt | .ldi | .prn | .push | .pop | .call | .ret | .jump | .jeq | .jne =>
    s.takeFault .unsupportedALUOp addr m.opcode

/-- ADD Ra, Rb (R71). -/
def execAdd (a b : Byte) (s : State) : Host.Outcome State Fault Refusal :=
  withTwoRegs .add a b (alu .add s.pc) s

/-- MUL Ra, Rb (R72). -/
def execMul (a b : Byte) (s : State) : Host.Outcome State Fault Refusal :=
  withTwoRegs .mul a b (alu .mul s.pc) s

/-- CMP Ra, Rb (R73). -/
def execCmp (a b : Byte) (s : State) : Host.Outcome State Fault Refusal :=
  withTwoRegs .cmp a b (alu .cmp s.pc) s

end Sys2Proof.Machine
end

