-- ==== Sys2Proof/Machine/Branch.lean ====
section
/-! DEFINITION. JUMP, JEQ and JNE (45_branch.md). None auto-advances: `pc` is the instruction's own address. -/

namespace Sys2Proof.Machine

open Sys2Proof

/-- `pc <- x[ra]` if taken, else `pc <- pc + 2`, the length of the instruction (R50, R86). -/
def branchIf (taken : Bool) (ra : Reg) (s : State) : State :=
  s.setPc (if taken then s.reg ra else s.pc + 2#8)

/-- JUMP Ra (R87). -/
def execJump (a : Byte) (s : State) : Host.Outcome State Fault Refusal :=
  withReg .jump a (branchIf true) s

/-- JEQ Ra (R88): taken when `E` is 1. -/
def execJeq (a : Byte) (s : State) : Host.Outcome State Fault Refusal :=
  withReg .jeq a (branchIf s.flags.E) s

/-- JNE Ra (R89): taken when `E` is 0. -/
def execJne (a : Byte) (s : State) : Host.Outcome State Fault Refusal :=
  withReg .jne a (branchIf (!s.flags.E)) s

end Sys2Proof.Machine
end

