-- ==== Sys2Proof/Machine/CallReturn.lean ====
section
/-! DEFINITION. CALL and RET (44_call_return.md). Neither auto-advances: `pc` is the instruction's own address. -/

namespace Sys2Proof.Machine

open Sys2Proof

/-- CALL's effect (R83): the return address `pc + 2` is pushed, then `pc` takes `x[ra]`, read after the decrement. -/
def callReg (ra : Reg) (s : State) : State :=
  let ret := s.pc + 2#8
  let t := s.decSp
  let u := t.memWrite t.sp ret
  u.setPc (u.reg ra)

/-- RET's effect (R84): `pc` takes the byte at the stack pointer, then the stack pointer is incremented. -/
def returnFromCall (s : State) : State :=
  (s.setPc (s.memRead s.sp)).incSp

/-- CALL Ra (R83). -/
def execCall (a : Byte) (s : State) : Host.Outcome State Fault Refusal :=
  withReg .call a callReg s

/-- RET (R84). -/
def execRet (s : State) : Host.Outcome State Fault Refusal :=
  withNoReg .ret returnFromCall s

end Sys2Proof.Machine
end

