-- ==== Sys2Proof/Machine/Stack.lean ====
section
/-! DEFINITION. PUSH and POP (43_stack.md). The order of the writes is the pseudocode's (R9). -/

namespace Sys2Proof.Machine

open Sys2Proof

/-- PUSH's effect (R79): the stack pointer is decremented, then `x[ra]` is stored at it; `x[ra]` is read after the
decrement. -/
def pushReg (ra : Reg) (s : State) : State :=
  let t := s.decSp
  t.memWrite t.sp (t.reg ra)

/-- POP's effect (R80): the byte at the stack pointer goes to `x[ra]`, then the stack pointer is incremented; it is read
after the write to `x[ra]`. -/
def popReg (ra : Reg) (s : State) : State :=
  (s.setReg ra (s.memRead s.sp)).incSp

/-- PUSH Ra (R79). -/
def execPush (a : Byte) (s : State) : Host.Outcome State Fault Refusal :=
  withReg .push a pushReg s

/-- POP Ra (R80). -/
def execPop (a : Byte) (s : State) : Host.Outcome State Fault Refusal :=
  withReg .pop a popReg s

end Sys2Proof.Machine
end

