-- ==== Sys2Proof/Machine/Transfer.lean ====
section
/-! DEFINITION. HLT, LDI and PRN (42_transfer_and_halt.md). -/

namespace Sys2Proof.Machine

open Sys2Proof

/-- HLT (R75): `pc` has already advanced by 1. -/
def execHlt (s : State) : Host.Outcome State Fault Refusal :=
  withNoReg .hlt (fun u => u.setMode .halted) s

/-- LDI Ra, imm8 (R76). -/
def execLdi (a imm : Byte) (s : State) : Host.Outcome State Fault Refusal :=
  withReg .ldi a (fun ra u => u.setReg ra imm) s

/-- PRN Ra (R77). -/
def execPrn (a : Byte) (s : State) : Host.Outcome State Fault Refusal :=
  withReg .prn a (fun ra u => u.emit (u.reg ra)) s

end Sys2Proof.Machine
end

