-- ==== Sys2Proof/Machine/Step.lean ====
section
/-! DEFINITION. The step (R67): in mode Running, fetch, decode and execute exactly one instruction; otherwise no effect
(R56). -/

namespace Sys2Proof.Machine

open Sys2Proof

/-- One `step` transaction (R56, R61, R67). -/
def step (s : State) : Host.Outcome State Fault Refusal :=
  if s.executes then
    let f := s.fetch
    match decode f.latches.ir f.latches.opA f.latches.opB with
    | .ok i => endStep s.latchResidue (exec i f)
    | .error e => endStep s.latchResidue (.next (f.rejectOpcode e))
  else .next s

/-- The state in which the very next step runs the instruction word `w` of the opcode table: its bytes stand at `pc`,
and the mode is Running, as `load` and `start` would leave it (log entry 8). -/
def State.withFetchWord (s : State) (nbits w : Nat) : State :=
  (s.writeBytes s.pc (tableBytes nbits w)).setMode .running

end Sys2Proof.Machine
end

