-- ==== Sys2Proof/Machine/Ports.lean ====
section
/-! DEFINITION. The block's transactions with its host (R53): reset, load, start, step, run, status, trace and
debug_read. They are serialised (R54): one request, one reply, the state after it. -/

namespace Sys2Proof.Machine

open Sys2Proof

/-- A host transaction (R53). `run` carries the fuel under which a model runs it (R57, log entry 7). -/
inductive Request where
  | reset
  | load (bytes : List Byte)
  | start
  | step
  | run (fuel : Nat)
  | status
  | trace
  | debugRead (cell : Byte)
  deriving DecidableEq, Repr

/-- The status port (R59): `mode` and the four fault fields. -/
structure StatusView where
  mode : Mode
  fault : FaultStatus
  deriving DecidableEq, Repr

/-- The trace tuple (R102): `pc`, the three bytes there, and the registers. -/
structure TraceView where
  pc : Byte
  byte0 : Byte
  byte1 : Byte
  byte2 : Byte
  regs : Regs
  deriving DecidableEq, Repr

/-- What `debug_read` returns (R103): the architectural state but the latches, with the memory cell asked for. -/
structure DebugView where
  pc : Byte
  regs : Regs
  flags : Flags
  mode : Mode
  fault : FaultStatus
  cell : Byte
  output : List Byte
  deriving DecidableEq, Repr

/-- What the host is told (R53; log entry 10). -/
inductive Reply where
  /-- The transaction was accepted. -/
  | accepted
  /-- The transaction was refused and had no effect. -/
  | refused
  /-- A `run` was accepted; `ended` says whether it ended within its fuel (R57). -/
  | ran (ended : Bool)
  | status (view : StatusView)
  | trace (view : TraceView)
  | debug (view : DebugView)
  deriving DecidableEq, Repr

/-- The state after one `step`; a step that has no next state would leave the state as it was. -/
def State.afterStep (s : State) : State :=
  match step s with
  | .next t => t
  | .fault _ => s
  | .refused _ => s

/-- Steps for as long as the mode is Running, at most `fuel` of them, and whether the run ended (R57). -/
def runWhile : Nat → State → Bool × State
  | 0, s => (!s.executes, s)
  | fuel + 1, s => if s.executes then runWhile fuel s.afterStep else (true, s)

/-- The status port (R59). -/
def State.statusView (s : State) : StatusView := ⟨s.mode, s.fault⟩

/-- The trace tuple (R102). -/
def State.traceView (s : State) : TraceView :=
  ⟨s.pc, s.memRead s.pc, s.memRead (s.pc + 1#8), s.memRead (s.pc + 2#8), s.regs⟩

/-- The debug read of one memory cell and the rest of the architectural state (R103). -/
def State.debugView (s : State) (cell : Byte) : DebugView :=
  ⟨s.pc, s.regs, s.flags, s.mode, s.fault, s.memRead cell, s.output⟩

/-- `load(bytes)` (R108, R109). -/
def load (bytes : List Byte) (s : State) : Reply × State :=
  match s.mode with
  | .halted =>
    if bytes.length ≤ Config.memSize then (.accepted, s.writeBytes Config.loadBase bytes) else (.refused, s)
  | .running => (.refused, s)
  | .faulted => (.refused, s)

/-- `start` (R55). -/
def start (s : State) : Reply × State :=
  match s.mode with
  | .halted => (.accepted, s.setMode .running)
  | .running => (.refused, s)
  | .faulted => (.refused, s)

/-- `run` (R57): `start`, then steps while Running. -/
def run (fuel : Nat) (s : State) : Reply × State :=
  match start s with
  | (.accepted, u) => (.ran (runWhile fuel u).1, (runWhile fuel u).2)
  | (r, u) => (r, u)

/-- One host transaction: the reply and the state after it (R53). -/
def transact (r : Request) (s : State) : Reply × State :=
  match r with
  | .reset => (.accepted, s.resetAll)
  | .load bytes => load bytes s
  | .start => start s
  | .step => (.accepted, s.afterStep)
  | .run fuel => run fuel s
  | .status => (.status s.statusView, s)
  | .trace => (.trace s.traceView, s)
  | .debugRead cell => (.debug (s.debugView cell), s)

end Sys2Proof.Machine
end

