-- ==== Sys2Proof/Safety.lean ====
section
/-! DEFINITION. The terms claims are stated in: what two states share, what a fault leaves, the invariant of the machine,
and how a run ends. -/

namespace Sys2Proof

/-- The registers an instruction writes, by the table of R14; a byte that names no register writes none. -/
def Instr.writes : Instr → List Reg
  | .hlt => []
  | .ldi a _ => (asReg a).toList
  | .prn _ => []
  | .mul a _ => (asReg a).toList
  | .push _ => [.R7]
  | .pop a => .R7 :: (asReg a).toList
  | .call _ => [.R7]
  | .ret => [.R7]
  | .add a _ => (asReg a).toList
  | .cmp _ _ => []
  | .jump _ => []
  | .jeq _ => []
  | .jne _ => []

end Sys2Proof

namespace Sys2Proof.Machine

open Sys2Proof

/-- Two states agree on the whole architectural state but the latches, which are unspecified between steps (R22, R24). -/
def SameArch (s t : State) : Prop :=
  t.regs = s.regs ∧ t.pc = s.pc ∧ t.flags = s.flags ∧ t.mode = s.mode ∧ t.fault = s.fault ∧ t.mem = s.mem ∧
    t.output = s.output

/-- Every register but those listed holds what it held. -/
def SameRegsExcept (written : List Reg) (s t : State) : Prop := ∀ r, r ∉ written → t.reg r = s.reg r

/-- Every byte of memory reads as it did. -/
def SameMemory (s t : State) : Prop := ∀ c, t.memRead c = s.memRead c

/-- Every byte of memory but the cell `a` reads as it did. -/
def SameMemoryExcept (a : Byte) (s t : State) : Prop := ∀ c, c ≠ a → t.memRead c = s.memRead c

/-- The mode and the fault status are unchanged. -/
def SameControl (s t : State) : Prop := t.mode = s.mode ∧ t.fault = s.fault

/-- What an instruction that stores nothing, sets no flag, emits nothing and goes on leaves alone: everything but `pc` and
the listed registers. -/
def FrameRegs (written : List Reg) (s t : State) : Prop :=
  SameRegsExcept written s t ∧ t.flags = s.flags ∧ SameMemory s t ∧ SameControl s t ∧ t.output = s.output

/-- What an instruction that stores one byte to the cell `a` leaves alone: everything but `pc`, that cell and the listed
registers. -/
def FrameStore (written : List Reg) (a : Byte) (s t : State) : Prop :=
  SameRegsExcept written s t ∧ t.flags = s.flags ∧ SameMemoryExcept a s t ∧ SameControl s t ∧ t.output = s.output

/-- From `s` to `t` a fault was taken (R96, R97): the fault fields record it with the address of the faulting opcode
byte, the mode is Faulted, and `pc`, every register, the flags, memory and the output stream are as before. -/
def FaultTaken (s t : State) (cause : FaultCause) (ir : Byte) : Prop :=
  t.mode = .faulted ∧ t.fault = ⟨cause.code, s.pc, ir, cause.operand⟩ ∧ t.pc = s.pc ∧ SameRegsExcept [] s t ∧
    t.flags = s.flags ∧ SameMemory s t ∧ t.output = s.output

/-- The instruction answers with InvalidRegister taken: `ir` is its opcode byte and `operand` the offending byte (R93). -/
def TakesInvalidRegister (i : Instr) (ir operand : Byte) (s : State) : Prop :=
  ∃ t, exec i s = .next t ∧ FaultTaken s t (.invalidRegister operand) ir

/-- What the decoder makes of the three bytes at `pc` (R62 to R64). -/
def State.nextInstr (s : State) : Except DecodeError Instr :=
  decode (s.memRead s.pc) (s.memRead (s.pc + 1#8)) (s.memRead (s.pc + 2#8))

/-- At most one of the three flags is 1: none before the first CMP, exactly one after any (R19). -/
def Flags.atMostOne (f : Flags) : Bool := !(f.E && f.L) && !(f.E && f.G) && !(f.L && f.G)

/-- The fault status describes the state it stands in: the instruction at `pc` is the one that faulted (R90, R97). -/
def State.faultRecorded (s : State) : Prop :=
  s.fault.pc = s.pc ∧ s.fault.ir = s.memRead s.pc ∧
    ((s.fault.code = .unknownOpcode ∧ s.fault.operand = 0x00#8 ∧ s.nextInstr = .error (.unknownOpcode s.fault.ir)) ∨
      (s.fault.code = .invalidRegister ∧
        ∃ i, s.nextInstr = .ok i ∧ i.badOperand = some s.fault.operand))

/-- The invariant of the machine: memory is in canonical form, at most one flag is 1, the fault status is clear unless
the mode is Faulted, and describes the fault when it is. -/
def State.Inv (s : State) : Prop :=
  s.mem.wf = true ∧ s.flags.atMostOne = true ∧ (s.mode ≠ .faulted → s.fault = FaultStatus.clear) ∧
    (s.mode = .faulted → s.faultRecorded)

/-- A run that ended normally (R60). -/
def State.endedNormally (s : State) : Bool := s.mode = .halted

/-- A run that ended aborted (R60). -/
def State.endedAborted (s : State) : Bool := s.mode = .faulted

/-- The instructions of a list executed one after another, each in the state the one before left. -/
def execAll : List Instr → State → Host.Outcome State Fault Refusal
  | [], s => .next s
  | i :: rest, s =>
    match exec i s with
    | .next t => execAll rest t
    | .fault f => .fault f
    | .refused r => .refused r

end Sys2Proof.Machine
end

