-- ==== Sys2Proof/Certificates/Slice0/Obligations.lean ====
section
/-! DEFINITION. The statements for the provers. A register operand is written `r.byte`, the operand byte that names the
register `r`; the bytes of 8 and more are the InvalidRegister clauses, so no operand byte is left out. Wrapping is said
with exact integers and `% 256` (R7). Every instruction's next `pc` wraps modulo 256 by the spec's decision D1 (R26). A
statement that rests on a clause the spec marks '[decision: …]' or '[derived: …]' is of basis 'derived' and names that clause
in its docstring. No statement reads the latches between steps but to say that nothing depends on them: R22 leaves
them unspecified between steps (log entries 1 and 2). -/

open Sys2Proof Sys2Proof.Machine

/-! ### State and memory -/

/-- R106 with R107: the reset values, from every state. The flags' value is the spec's decision D4, the cleared memory D16,
the mode and fault fields D5 and D6, acceptance in every mode D21. Says nothing of the latches (log entry 1). -/
def Obligations.ResetSetsEveryPieceOfState : Prop :=
  ∀ s : State, ∃ t, transact .reset s = (.accepted, t) ∧
    (∀ r, r ≠ .R7 → t.reg r = 0x00#8) ∧ t.reg .R7 = 0xF4#8 ∧ t.pc = 0x00#8 ∧ t.flags = ⟨false, false, false⟩ ∧
    t.mode = .halted ∧ t.fault = ⟨.none, 0x00#8, 0x00#8, 0x00#8⟩ ∧ t.fault.code.bits = 0#2 ∧
    (∀ c, t.memRead c = 0x00#8) ∧ t.output = [] ∧ SameArch State.reset t

/-- R12, R13 with R8: the bytes below 8 name the eight registers, one each; a written register reads back the value
written and no other register changes; `sp` is register 7's storage. -/
def Obligations.RegisterFileHoldsEightRegisters : Prop :=
  (∀ a : Byte, a.toNat < 8 ↔ ∃ r : Reg, a = r.byte) ∧ (∀ r q : Reg, r.byte = q.byte → r = q) ∧
  (∀ (s : State) (r : Reg) (v : Byte), (s.setReg r v).reg r = v ∧ SameRegsExcept [r] s (s.setReg r v)) ∧
  (∀ (s : State) (v : Byte), (s.setReg .R7 v).sp = v) ∧ (∀ s : State, s.sp = s.reg .R7)

/-- R33: a read returns the most recent write to the cell, every other cell is as before (R27), and the write keeps the
canonical form of memory (log entry 3), from every canonical memory. -/
def Obligations.MemoryReadsLatestWrite : Prop :=
  ∀ (m : Memory) (a v : Byte), m.wf = true →
    (m.write a v).wf = true ∧ (m.write a v).read a = v ∧ ∀ c, c ≠ a → (m.write a v).read c = m.read c

/-- Two canonical memories that read alike are the same list (log entry 3). -/
def Obligations.CanonicalMemoriesAreEqualWhenTheyReadAlike : Prop :=
  ∀ m n : Memory, m.wf = true → n.wf = true → (∀ c, m.read c = n.read c) → m = n

/-! ### Encoding -/

/-- R47: one word of each of the thirteen instructions, written out from the opcode map. -/
def Obligations.OpcodeMapWordsDecode : Prop :=
  decode 0b00000001#8 0xFF#8 0xFF#8 = .ok .hlt ∧ decode 0b10000010#8 3#8 200#8 = .ok (.ldi 3#8 200#8) ∧
  decode 0b01000111#8 4#8 0xFF#8 = .ok (.prn 4#8) ∧ decode 0b10100010#8 1#8 2#8 = .ok (.mul 1#8 2#8) ∧
  decode 0b01000101#8 5#8 0xFF#8 = .ok (.push 5#8) ∧ decode 0b01000110#8 6#8 0xFF#8 = .ok (.pop 6#8) ∧
  decode 0b01010000#8 7#8 0xFF#8 = .ok (.call 7#8) ∧ decode 0b00010001#8 0xFF#8 0xFF#8 = .ok .ret ∧
  decode 0b10100000#8 2#8 1#8 = .ok (.add 2#8 1#8) ∧ decode 0b10100111#8 0#8 7#8 = .ok (.cmp 0#8 7#8) ∧
  decode 0b01010100#8 1#8 0xFF#8 = .ok (.jump 1#8) ∧ decode 0b01010101#8 2#8 0xFF#8 = .ok (.jeq 2#8) ∧
  decode 0b01010110#8 3#8 0xFF#8 = .ok (.jne 3#8)

/-- R49: whatever bytes follow it, an opcode byte outside the map of R47 is rejected by name, and exactly the thirteen
bytes of the map are accepted. -/
def Obligations.UnlistedOpcodesAreRejected : Prop :=
  ∀ ir opA opB : Byte,
    (ir ∈ [0x01#8, 0x82#8, 0x47#8, 0xA2#8, 0x45#8, 0x46#8, 0x50#8, 0x11#8, 0xA0#8, 0xA7#8, 0x54#8, 0x55#8, 0x56#8] ∧
      ∃ i, decode ir opA opB = .ok i) ∨
    (ir ∉ [0x01#8, 0x82#8, 0x47#8, 0xA2#8, 0x45#8, 0x46#8, 0x50#8, 0x11#8, 0xA0#8, 0xA7#8, 0x54#8, 0x55#8, 0x56#8] ∧
      decode ir opA opB = .error (.unknownOpcode ir))

/-- Decode and encode agree, both ways (R38, R44, R47). Every instruction, every operand at every value, whatever bytes
follow it in memory, decodes from its encoding; and three bytes that decode to an instruction begin with its encoding, of
1 + AA bytes, so no bit of an encoding is dropped and no two encodings share an instruction. -/
def Obligations.DecodeAndEncodeAgree : Prop :=
  (∀ (i : Instr) (rest : List Byte), decodeBytes (encode i ++ rest) = .ok i) ∧
  (∀ (ir opA opB : Byte) (i : Instr), decode ir opA opB = .ok i →
    encode i = [ir, opA, opB].take (encode i).length ∧ (encode i).length = 1 + fieldAA ir)

/-- R48: AA is the operand count and never 3, B is 1 exactly on ADD, MUL and CMP, C is 1 exactly on CALL, RET, JUMP, JEQ
and JNE. -/
def Obligations.OpcodeFieldsAgreeWithTheInstruction : Prop :=
  ∀ i : Instr,
    fieldAA i.mnemonic.opcode = i.operands.length ∧ i.operands.length ≤ 2 ∧
    (fieldB i.mnemonic.opcode = true ↔ i.mnemonic ∈ [.add, .mul, .cmp]) ∧
    (fieldC i.mnemonic.opcode = true ↔ i.mnemonic ∈ [.call, .ret, .jump, .jeq, .jne])

/-! ### The instructions -/

/-- R71: the sum, the register read as its own source, no flag.
What InvalidRegister records, the Faulted mode and the unchanged rest are R90, R93, R96 (the spec's decisions D2, D3,
D6, log entry 4) and its derivation R97; that `fault_ir` is the instruction's own opcode byte is log entry 6. That operand_a is checked first is R65 and R93.
The advance of `pc` modulo 256 is R66 (decision D1, log entry 4). -/
def Obligations.AddWritesTheSumModulo256 : Prop :=
  (∀ a b : Byte, decode 0b10100000#8 a b = .ok (.add a b)) ∧
  (∀ (ra rb : Reg) (s : State), ∃ t, exec (.add ra.byte rb.byte) s = .next t ∧
    (t.reg ra).toNat = ((s.reg ra).toNat + (s.reg rb).toNat) % 256 ∧ t.pc.toNat = (s.pc.toNat + 3) % 256 ∧
    FrameRegs [ra] s t) ∧
  (∀ (a b : Byte) (s : State), 8 ≤ a.toNat → TakesInvalidRegister (.add a b) 0xA0#8 a s) ∧
  (∀ (ra : Reg) (b : Byte) (s : State), 8 ≤ b.toNat → TakesInvalidRegister (.add ra.byte b) 0xA0#8 b s)

/-- R72: the low 8 bits of the product, no flag.
What InvalidRegister records, the Faulted mode and the unchanged rest are R90, R93, R96 (the spec's decisions D2, D3,
D6, log entry 4) and its derivation R97; that `fault_ir` is the instruction's own opcode byte is log entry 6. That operand_a is checked first is R65 and R93.
The advance of `pc` modulo 256 is R66 (decision D1, log entry 4). -/
def Obligations.MulWritesTheLowByteOfTheProduct : Prop :=
  (∀ a b : Byte, decode 0b10100010#8 a b = .ok (.mul a b)) ∧
  (∀ (ra rb : Reg) (s : State), ∃ t, exec (.mul ra.byte rb.byte) s = .next t ∧
    (t.reg ra).toNat = ((s.reg ra).toNat * (s.reg rb).toNat) % 256 ∧ t.pc.toNat = (s.pc.toNat + 3) % 256 ∧
    FrameRegs [ra] s t) ∧
  (∀ (a b : Byte) (s : State), 8 ≤ a.toNat → TakesInvalidRegister (.mul a b) 0xA2#8 a s) ∧
  (∀ (ra : Reg) (b : Byte) (s : State), 8 ≤ b.toNat → TakesInvalidRegister (.mul ra.byte b) 0xA2#8 b s)

/-- R73: all three flags are written from the unsigned comparison, exactly one of them is 1, and nothing else but `pc`
changes.
What InvalidRegister records, the Faulted mode and the unchanged rest are R90, R93, R96 (the spec's decisions D2, D3,
D6, log entry 4) and its derivation R97; that `fault_ir` is the instruction's own opcode byte is log entry 6. That operand_a is checked first is R65 and R93.
The advance of `pc` modulo 256 is R66 (decision D1, log entry 4). -/
def Obligations.CmpSetsExactlyOneFlag : Prop :=
  (∀ a b : Byte, decode 0b10100111#8 a b = .ok (.cmp a b)) ∧
  (∀ (ra rb : Reg) (s : State), ∃ t, exec (.cmp ra.byte rb.byte) s = .next t ∧
    (t.flags.E = true ↔ (s.reg ra).toNat = (s.reg rb).toNat) ∧
    (t.flags.L = true ↔ (s.reg ra).toNat < (s.reg rb).toNat) ∧
    (t.flags.G = true ↔ (s.reg rb).toNat < (s.reg ra).toNat) ∧
    [t.flags.E, t.flags.L, t.flags.G].count true = 1 ∧ t.pc.toNat = (s.pc.toNat + 3) % 256 ∧
    SameRegsExcept [] s t ∧ SameMemory s t ∧ SameControl s t ∧ t.output = s.output) ∧
  (∀ (a b : Byte) (s : State), 8 ≤ a.toNat → TakesInvalidRegister (.cmp a b) 0xA7#8 a s) ∧
  (∀ (ra : Reg) (b : Byte) (s : State), 8 ≤ b.toNat → TakesInvalidRegister (.cmp ra.byte b) 0xA7#8 b s)

/-- R75: `pc` is the HLT's address plus 1 and the mode Halted; the two bytes after it are ignored. -/
def Obligations.HltHaltsAfterItsOwnByte : Prop :=
  (∀ a b : Byte, decode 0b00000001#8 a b = .ok .hlt) ∧
  (∀ s : State, ∃ t, exec .hlt s = .next t ∧ t.mode = .halted ∧ t.pc.toNat = (s.pc.toNat + 1) % 256 ∧
    SameRegsExcept [] s t ∧ t.flags = s.flags ∧ SameMemory s t ∧ t.fault = s.fault ∧ t.output = s.output)

/-- R76: every immediate is stored unchanged, and the immediate is never checked.
What InvalidRegister records, the Faulted mode and the unchanged rest are R90, R93, R96 (the spec's decisions D2, D3,
D6, log entry 4) and its derivation R97; that `fault_ir` is the instruction's own opcode byte is log entry 6.
The advance of `pc` modulo 256 is R66 (decision D1, log entry 4). -/
def Obligations.LdiLoadsTheImmediate : Prop :=
  (∀ a b : Byte, decode 0b10000010#8 a b = .ok (.ldi a b)) ∧
  (∀ (ra : Reg) (imm : Byte) (s : State), ∃ t, exec (.ldi ra.byte imm) s = .next t ∧ t.reg ra = imm ∧
    t.pc.toNat = (s.pc.toNat + 3) % 256 ∧ FrameRegs [ra] s t) ∧
  (∀ (a imm : Byte) (s : State), 8 ≤ a.toNat → TakesInvalidRegister (.ldi a imm) 0x82#8 a s)

/-- R77: one event, the register's value, after every event emitted before it.
What InvalidRegister records, the Faulted mode and the unchanged rest are R90, R93, R96 (the spec's decisions D2, D3,
D6, log entry 4) and its derivation R97; that `fault_ir` is the instruction's own opcode byte is log entry 6.
The advance of `pc` modulo 256 is R66 (decision D1, log entry 4). -/
def Obligations.PrnEmitsTheRegister : Prop :=
  (∀ a b : Byte, decode 0b01000111#8 a b = .ok (.prn a)) ∧
  (∀ (ra : Reg) (s : State), ∃ t, exec (.prn ra.byte) s = .next t ∧ t.output = s.output ++ [s.reg ra] ∧
    t.pc.toNat = (s.pc.toNat + 2) % 256 ∧ SameRegsExcept [] s t ∧ t.flags = s.flags ∧ SameMemory s t ∧
    SameControl s t) ∧
  (∀ (a : Byte) (s : State), 8 ≤ a.toNat → TakesInvalidRegister (.prn a) 0x47#8 a s)

/-- R79: the store goes to the decremented stack pointer `s.decSp.sp`. That `PUSH R7` stores the decremented stack pointer
is the spec's decision D15. Reading the stored byte back needs canonical memory (`MemoryReadsLatestWrite`), which every
step keeps (`StepKeepsTheInvariant`).
What InvalidRegister records, the Faulted mode and the unchanged rest are R90, R93, R96 (the spec's decisions D2, D3,
D6, log entry 4) and its derivation R97; that `fault_ir` is the instruction's own opcode byte is log entry 6.
The advance of `pc` modulo 256 is R66 (decision D1, log entry 4). -/
def Obligations.PushStoresBelowTheStackPointer : Prop :=
  (∀ a b : Byte, decode 0b01000101#8 a b = .ok (.push a)) ∧
  (∀ (ra : Reg) (s : State), ∃ t, exec (.push ra.byte) s = .next t ∧ t.sp = s.decSp.sp ∧
    t.sp.toNat = (s.sp.toNat + 255) % 256 ∧
    (s.mem.wf = true → t.memRead s.decSp.sp = if ra = .R7 then s.decSp.sp else s.reg ra) ∧
    t.pc.toNat = (s.pc.toNat + 2) % 256 ∧ FrameStore [.R7] s.decSp.sp s t) ∧
  (∀ (a : Byte) (s : State), 8 ≤ a.toNat → TakesInvalidRegister (.push a) 0x45#8 a s)

/-- R80: the byte at the stack pointer goes to the register and the stack pointer rises by 1. That `POP R7` leaves the
popped byte plus 1 is the spec's decision D15. No cell of memory changes.
What InvalidRegister records, the Faulted mode and the unchanged rest are R90, R93, R96 (the spec's decisions D2, D3,
D6, log entry 4) and its derivation R97; that `fault_ir` is the instruction's own opcode byte is log entry 6.
The advance of `pc` modulo 256 is R66 (decision D1, log entry 4). -/
def Obligations.PopLoadsFromTheStackPointer : Prop :=
  (∀ a b : Byte, decode 0b01000110#8 a b = .ok (.pop a)) ∧
  (∀ (ra : Reg) (s : State), ∃ t, exec (.pop ra.byte) s = .next t ∧
    (ra ≠ .R7 → t.reg ra = s.memRead s.sp ∧ t.sp.toNat = (s.sp.toNat + 1) % 256) ∧
    (ra = .R7 → t.sp.toNat = ((s.memRead s.sp).toNat + 1) % 256) ∧
    t.pc.toNat = (s.pc.toNat + 2) % 256 ∧ FrameRegs [ra, .R7] s t) ∧
  (∀ (a : Byte) (s : State), 8 ≤ a.toNat → TakesInvalidRegister (.pop a) 0x46#8 a s)

/-- R83: the address after the CALL is stored at the decremented stack pointer and `pc` takes the register's value. That
`CALL R7` jumps to the decremented stack pointer is the spec's decision D15.
What InvalidRegister records, the Faulted mode and the unchanged rest are R90, R93, R96 (the spec's decisions D2, D3,
D6, log entry 4) and its derivation R97; that `fault_ir` is the instruction's own opcode byte is log entry 6.
The wrap of `pc + 2` is R26 (decision D1, log entry 4). -/
def Obligations.CallPushesTheReturnAddress : Prop :=
  (∀ a b : Byte, decode 0b01010000#8 a b = .ok (.call a)) ∧
  (∀ (ra : Reg) (s : State), ∃ t, exec (.call ra.byte) s = .next t ∧ t.sp = s.decSp.sp ∧
    t.sp.toNat = (s.sp.toNat + 255) % 256 ∧
    (s.mem.wf = true → (t.memRead s.decSp.sp).toNat = (s.pc.toNat + 2) % 256) ∧
    t.pc = (if ra = .R7 then s.decSp.sp else s.reg ra) ∧ FrameStore [.R7] s.decSp.sp s t) ∧
  (∀ (a : Byte) (s : State), 8 ≤ a.toNat → TakesInvalidRegister (.call a) 0x50#8 a s)

/-- R84: `pc` takes the byte at the stack pointer, which then rises by 1; the two bytes after RET are ignored. -/
def Obligations.RetJumpsToThePoppedByte : Prop :=
  (∀ a b : Byte, decode 0b00010001#8 a b = .ok .ret) ∧
  (∀ s : State, ∃ t, exec .ret s = .next t ∧ t.pc = s.memRead s.sp ∧ t.sp.toNat = (s.sp.toNat + 1) % 256 ∧
    FrameRegs [.R7] s t)

/-- R87: the register's value is the target.
What InvalidRegister records, the Faulted mode and the unchanged rest are R90, R93, R96 (the spec's decisions D2, D3,
D6, log entry 4) and its derivation R97; that `fault_ir` is the instruction's own opcode byte is log entry 6. -/
def Obligations.JumpTakesTheRegisterAsTarget : Prop :=
  (∀ a b : Byte, decode 0b01010100#8 a b = .ok (.jump a)) ∧
  (∀ (ra : Reg) (s : State), ∃ t, exec (.jump ra.byte) s = .next t ∧ t.pc = s.reg ra ∧ FrameRegs [] s t) ∧
  (∀ (a : Byte) (s : State), 8 ≤ a.toNat → TakesInvalidRegister (.jump a) 0x54#8 a s)

/-- R88: taken exactly when `E` is 1. The register is checked on both paths, the spec's decision D3.
What InvalidRegister records, the Faulted mode and the unchanged rest are R90, R93, R96 (the spec's decisions D2, D3,
D6, log entry 4) and its derivation R97; that `fault_ir` is the instruction's own opcode byte is log entry 6.
The wrap of `pc + 2` is R26 (decision D1, log entry 4). -/
def Obligations.JeqBranchesOnEqual : Prop :=
  (∀ a b : Byte, decode 0b01010101#8 a b = .ok (.jeq a)) ∧
  (∀ (ra : Reg) (s : State), ∃ t, exec (.jeq ra.byte) s = .next t ∧ (s.flags.E = true → t.pc = s.reg ra) ∧
    (s.flags.E = false → t.pc.toNat = (s.pc.toNat + 2) % 256) ∧ FrameRegs [] s t) ∧
  (∀ (a : Byte) (s : State), 8 ≤ a.toNat → TakesInvalidRegister (.jeq a) 0x55#8 a s)

/-- R89: taken exactly when `E` is 0. The register is checked on both paths, the spec's decision D3.
What InvalidRegister records, the Faulted mode and the unchanged rest are R90, R93, R96 (the spec's decisions D2, D3,
D6, log entry 4) and its derivation R97; that `fault_ir` is the instruction's own opcode byte is log entry 6.
The wrap of `pc + 2` is R26 (decision D1, log entry 4). -/
def Obligations.JneBranchesOnNotEqual : Prop :=
  (∀ a b : Byte, decode 0b01010110#8 a b = .ok (.jne a)) ∧
  (∀ (ra : Reg) (s : State), ∃ t, exec (.jne ra.byte) s = .next t ∧ (s.flags.E = false → t.pc = s.reg ra) ∧
    (s.flags.E = true → t.pc.toNat = (s.pc.toNat + 2) % 256) ∧ FrameRegs [] s t) ∧
  (∀ (a : Byte) (s : State), 8 ≤ a.toNat → TakesInvalidRegister (.jne a) 0x56#8 a s)

/-! ### The step -/

/-- R62: the latches take the bytes at `pc`, `pc + 1` and `pc + 2`, each address modulo 256, and the fetch writes nothing
else. -/
def Obligations.FetchLatchesThreeBytes : Prop :=
  ∀ s : State,
    s.fetch.latches = ⟨s.memRead s.pc, s.memRead (BitVec.ofNat 8 ((s.pc.toNat + 1) % 256)),
      s.memRead (BitVec.ofNat 8 ((s.pc.toNat + 2) % 256))⟩ ∧ SameArch s s.fetch

/-- R67: in mode Running, when the three bytes at `pc` decode to an instruction, a step is that instruction's execution at
that state; what the step adds is only that the latches hold anything afterwards (log entry 2). -/
def Obligations.StepRunsTheDecodedInstruction : Prop :=
  ∀ (s : State) (i : Instr), s.mode = .running → s.nextInstr = .ok i →
    ∃ t u, exec i s = .next t ∧ step s = .next u ∧ SameArch t u

/-- R56: with `mode` Halted or Faulted a step has no effect. -/
def Obligations.StepHasNoEffectUnlessRunning : Prop :=
  ∀ s : State, s.mode ≠ .running → step s = .next s

/-- R91 with R64: an opcode byte outside the map of R47 raises UnknownOpcode, recording the byte and the `pc` it was fetched
from, and changes nothing but the fault fields and the mode, whatever the operand bytes are. That the mode becomes Faulted, the fault code and
`fault_operand` = 0 are R20, R90 and R96, the spec's decisions D5 and D6 (log entry 4). -/
def Obligations.UnknownOpcodeIsFatal : Prop :=
  ∀ s : State, s.mode = .running →
    s.memRead s.pc ∉ [0x01#8, 0x82#8, 0x47#8, 0xA2#8, 0x45#8, 0x46#8, 0x50#8, 0x11#8, 0xA0#8, 0xA7#8, 0x54#8, 0x55#8,
      0x56#8] →
    ∃ t, step s = .next t ∧ FaultTaken s t .unknownOpcode (s.memRead s.pc)

/-- R93 with R65 and R95: the first register operand of 8 or more, operand_a before operand_b, raises InvalidRegister
before the auto-advance, on every path of the instruction; with none the instruction runs and raises nothing. -/
def Obligations.InvalidRegisterIsFatal : Prop :=
  ∀ (s : State) (i : Instr), s.mode = .running → s.nextInstr = .ok i →
    (∀ operand, i.badOperand = some operand →
      ∃ t, step s = .next t ∧ FaultTaken s t (.invalidRegister operand) (s.memRead s.pc)) ∧
    (i.wellFormed = true → ∃ t, step s = .next t ∧ t.mode ≠ .faulted ∧ t.fault = s.fault)

/-- R57, R90: a running machine stops only at HLT or at a fault, and it faults exactly on an unknown opcode or a register
operand of 8 or more. -/
def Obligations.OnlyHltAndFaultsStopARun : Prop :=
  ∀ s t : State, s.mode = .running → step s = .next t →
    (t.mode = .halted ↔ s.memRead s.pc = 0x01#8) ∧
    (t.mode = .faulted ↔ s.nextInstr = .error (.unknownOpcode (s.memRead s.pc)) ∨
      ∃ i, s.nextInstr = .ok i ∧ i.wellFormed = false)

/-- R97: faults are precise. Whatever fault a step raises, `pc` is the address of the faulting opcode byte and everything
but the mode and the fault fields is as it was. -/
def Obligations.FaultsArePrecise : Prop :=
  ∀ s t : State, s.mode = .running → step s = .next t → t.mode = .faulted →
    t.pc = s.pc ∧ t.regs = s.regs ∧ t.flags = s.flags ∧ t.mem = s.mem ∧ t.output = s.output ∧
    t.fault.pc = s.pc ∧ t.fault.ir = s.memRead s.pc ∧ t.fault.code ≠ .none

/-- R92 with R74: no step raises UnsupportedALUOp, and the ALU raises it for every operation but its three. -/
def Obligations.UnsupportedAluOpIsNeverRaised : Prop :=
  (∀ s t : State, step s = .next t → s.fault.code ≠ .unsupportedALUOp → t.fault.code ≠ .unsupportedALUOp) ∧
  (∀ (m : Mnemonic) (addr : Byte) (ra rb : Reg) (s : State), s.fault.code ≠ .unsupportedALUOp →
    ((alu m addr ra rb s).fault.code = .unsupportedALUOp ↔ m ∉ [.add, .mul, .cmp]))

/-- No instruction, well-formed or not, and no step ends a run outside the state: every fault of the spec is a next state
(R90, R96; log entry 11). -/
def Obligations.EveryStepHasANextState : Prop :=
  (∀ (i : Instr) (s : State), ∃ t, exec i s = .next t) ∧ ∀ s : State, ∃ t, step s = .next t

/-- R68: after a step that does not fault, an instruction whose C bit is 0 leaves `pc` at its address plus 1 + AA, modulo
256. -/
def Obligations.AutoAdvanceIsExact : Prop :=
  ∀ (s t : State) (i : Instr), s.mode = .running → s.nextInstr = .ok i → step s = .next t → t.mode ≠ .faulted →
    fieldC (s.memRead s.pc) = false → t.pc.toNat = (s.pc.toNat + 1 + fieldAA (s.memRead s.pc)) % 256

/-- R19: a step that does not execute CMP writes no flag, and a CMP that does not fault leaves exactly one flag at 1. -/
def Obligations.OnlyCmpWritesTheFlags : Prop :=
  ∀ s t : State, s.mode = .running → step s = .next t →
    (s.memRead s.pc ≠ 0xA7#8 → t.flags = s.flags) ∧
    (s.memRead s.pc = 0xA7#8 → t.mode ≠ .faulted → [t.flags.E, t.flags.L, t.flags.G].count true = 1)

/-- R25: only PUSH and CALL write memory, and they write the one cell below the stack pointer. -/
def Obligations.OnlyPushAndCallWriteMemory : Prop :=
  ∀ s t : State, step s = .next t →
    (s.memRead s.pc ≠ 0x45#8 → s.memRead s.pc ≠ 0x50#8 → SameMemory s t) ∧ SameMemoryExcept s.decSp.sp s t

/-- R58, R77: a running PRN of a register emits that register's value, one event, after every event emitted before; every
other step, a PRN whose operand names no register among them, leaves the output stream as it was. The event form of the
port is the spec's decision D8. -/
def Obligations.OnlyPrnEmits : Prop :=
  ∀ s t : State, step s = .next t →
    (∀ r : Reg, s.mode = .running → s.memRead s.pc = 0x47#8 → s.memRead (s.pc + 1#8) = r.byte →
      t.output = s.output ++ [s.reg r]) ∧
    ((s.mode ≠ .running ∨ s.memRead s.pc ≠ 0x47#8 ∨ 8 ≤ (s.memRead (s.pc + 1#8)).toNat) → t.output = s.output)

/-- R14: an instruction writes no register but those the table names for it. -/
def Obligations.RegistersWrittenAreThoseOfTheTable : Prop :=
  ∀ (i : Instr) (s t : State), exec i s = .next t → SameRegsExcept i.writes s t

/-- R18: no instruction reads `L` or `G`. Two states that differ only there give results that differ only there. -/
def Obligations.NoInstructionReadsLOrG : Prop :=
  ∀ (i : Instr) (s t : State) (l g : Bool), exec i s = .next t →
    ∃ u, exec i { s with flags := ⟨s.flags.E, l, g⟩ } = .next u ∧ u.regs = t.regs ∧ u.pc = t.pc ∧
      u.flags.E = t.flags.E ∧ u.mode = t.mode ∧ u.fault = t.fault ∧ u.mem = t.mem ∧ u.output = t.output

/-- R22, R69: no step's effect depends on what the latches held before it. -/
def Obligations.NoStepReadsOldLatches : Prop :=
  ∀ s s' t : State, SameArch s s' → step s = .next t → ∃ t', step s' = .next t' ∧ SameArch t t'

/-- R36, R113 (the spec's own derivations) with R62: after a PUSH or a CALL the stored cell reads the stored byte and every
other cell as before, and all three latches of the next fetch, at `pc`, `pc + 1` and `pc + 2`, take those bytes: no fence,
cache operation or delay stands between them. The byte `PUSH R7` stores is decision D15. -/
def Obligations.StoresAreVisibleToTheNextFetch : Prop :=
  ∀ (i : Instr) (stored : Byte) (s t : State), s.mem.wf = true → exec i s = .next t →
    ((∃ ra : Reg, i = .push ra.byte ∧ stored = if ra = .R7 then s.decSp.sp else s.reg ra) ∨
      (∃ ra : Reg, i = .call ra.byte ∧ stored = s.pc + 2#8)) →
    (∀ c, t.memRead c = if c = s.decSp.sp then stored else s.memRead c) ∧
    t.fetch.latches.ir = (if t.pc = s.decSp.sp then stored else s.memRead t.pc) ∧
    t.fetch.latches.opA = (if t.pc + 1#8 = s.decSp.sp then stored else s.memRead (t.pc + 1#8)) ∧
    t.fetch.latches.opB = (if t.pc + 2#8 = s.decSp.sp then stored else s.memRead (t.pc + 2#8))

/-! ### Sequences -/

/-- R81: after a PUSH and a POP the stack pointer has its value from before the PUSH and the popped register the pushed
value, unless the POP names R7. -/
def Obligations.PushThenPopRestoresTheStackPointer : Prop :=
  ∀ (ra rb : Reg) (s : State), s.mem.wf = true → rb ≠ .R7 →
    ∃ t, execAll [.push ra.byte, .pop rb.byte] s = .next t ∧ t.sp = s.sp ∧
      t.reg rb = (if ra = .R7 then s.decSp.sp else s.reg ra) ∧ SameRegsExcept [rb] s t

/-- R83, R84 and the source's property S3: a RET that finds the stack as its CALL left it goes to the instruction after the
CALL and restores the stack pointer. `u` is the state in which the RET runs. -/
def Obligations.CallThenRetReturnsAfterTheCall : Prop :=
  ∀ (ra : Reg) (s t u : State), s.mem.wf = true → exec (.call ra.byte) s = .next t → u.sp = t.sp →
    u.memRead u.sp = t.memRead t.sp →
    ∃ v, exec .ret u = .next v ∧ v.pc.toNat = (s.pc.toNat + 2) % 256 ∧ v.sp = s.sp

/-- R85: each CALL takes one byte of stack, to any depth, and none faults; from the reset stack pointer 244 CALLs bring it
to 0x00 and 245 wrap it to 0xFF. -/
def Obligations.NestedCallsTakeOneByteEach : Prop :=
  ∀ (rs : List Reg) (s : State),
    ∃ t, execAll (rs.map (fun r => Instr.call r.byte)) s = .next t ∧ t.mode = s.mode ∧ t.fault = s.fault ∧
      (t.sp.toNat + rs.length) % 256 = s.sp.toNat % 256 ∧
      (s.sp = 0xF4#8 → (rs.length = 244 → t.sp = 0x00#8) ∧ (rs.length = 245 → t.sp = 0xFF#8))

/-- R87's corner case with R57: a JUMP to its own address loops for ever without changing any state, so a run of it does not
end under any fuel. -/
def Obligations.JumpToItselfNeverEnds : Prop :=
  ∀ (s : State) (r : Reg) (fuel : Nat), s.mode = .running → s.memRead s.pc = 0x54#8 →
    s.memRead (s.pc + 1#8) = r.byte → s.reg r = s.pc →
    ∃ t, runWhile fuel s = (false, t) ∧ SameArch s t

/-- R55 after R75: a `start` after HLT resumes at the HLT's address plus 1 with everything kept (the spec's decision
D14). -/
def Obligations.StartAfterHltResumes : Prop :=
  ∀ s t : State, s.mode = .running → exec .hlt s = .next t →
    ∃ u, transact .start t = (.accepted, u) ∧ u.mode = .running ∧ u.pc.toNat = (s.pc.toNat + 1) % 256 ∧
      FrameRegs [] s u

/-! ### Host transactions -/

/-- R108, R109: a load is accepted exactly in mode Halted with at most 256 bytes; it writes cell `i` with byte `i`, leaves
every other cell and everything else as it was; a refused load changes nothing. -/
def Obligations.LoadWritesTheProgramFromAddressZero : Prop :=
  ∀ (bytes : List Byte) (s : State), s.mem.wf = true →
    (s.mode = .halted → bytes.length ≤ 256 →
      ∃ t, transact (.load bytes) s = (.accepted, t) ∧
        (∀ c : Byte, t.memRead c = bytes.getD c.toNat (s.memRead c)) ∧ t.regs = s.regs ∧ t.pc = s.pc ∧
        t.flags = s.flags ∧ SameControl s t ∧ t.output = s.output) ∧
    ((s.mode ≠ .halted ∨ 256 < bytes.length) → transact (.load bytes) s = (.refused, s))

/-- R55: `start` is accepted exactly in mode Halted and sets the mode to Running, nothing else. -/
def Obligations.StartSetsRunningAndNothingElse : Prop :=
  ∀ s : State,
    (s.mode = .halted → transact .start s = (.accepted, { s with mode := .running })) ∧
    (s.mode ≠ .halted → transact .start s = (.refused, s))

/-- R57: a run is accepted exactly in mode Halted. It is `start` followed by `step` for as long as the mode is Running:
the state it reaches is that of `k` steps of the machine from the started state, every state before it is Running, and it
stops short of its fuel only outside Running. It reports that it ended exactly when that state is one of a normal or an
aborted end (R60), and once it ends, more fuel changes nothing. That a run carries fuel is the model's form (log
entry 7). -/
def Obligations.RunEndsExactlyOutsideRunning : Prop :=
  (∀ (fuel : Nat) (s : State), s.mode ≠ .halted → transact (.run fuel) s = (.refused, s)) ∧
  (∀ (fuel : Nat) (s : State), s.mode = .halted →
    ∃ ended t, transact (.run fuel) s = (.ran ended, t) ∧
      (∃ k, k ≤ fuel ∧ Host.Core.run Sys2Proof.core k { s with mode := .running } = .next t ∧
        (∀ j, j < k → ∃ u : State, Host.Core.run Sys2Proof.core j { s with mode := .running } = .next u ∧
          u.mode = .running) ∧
        (ended = false → k = fuel)) ∧
      (ended = true ↔ t.endedNormally = true ∨ t.endedAborted = true) ∧
      (ended = true → ∀ more, transact (.run (fuel + more)) s = (.ran true, t)))

/-- R98: while the mode is Faulted, every transaction but `reset` leaves the whole state as it is, `load`, `start` and `run`
are refused, and `reset` leaves Faulted. -/
def Obligations.OnlyResetLeavesFaulted : Prop :=
  ∀ s : State, s.mode = .faulted →
    (∀ r : Request, r ≠ .reset → (transact r s).2 = s) ∧
    (∀ bytes, (transact (.load bytes) s).1 = .refused) ∧ (transact .start s).1 = .refused ∧
    (∀ fuel, (transact (.run fuel) s).1 = .refused) ∧ (transact .reset s).2.mode = .halted

/-- R59, R102, R103: the status, trace and debug ports report the state and change nothing. That the debug read shows the
output stream too is read from R103's general clause (log entry 10). -/
def Obligations.ReadPortsReportTheState : Prop :=
  ∀ (s : State) (c : Byte),
    transact .status s = (.status ⟨s.mode, s.fault⟩, s) ∧
    transact .trace s = (.trace ⟨s.pc, s.memRead s.pc, s.memRead (BitVec.ofNat 8 ((s.pc.toNat + 1) % 256)),
      s.memRead (BitVec.ofNat 8 ((s.pc.toNat + 2) % 256)), s.regs⟩, s) ∧
    transact (.debugRead c) s = (.debug ⟨s.pc, s.regs, s.flags, s.mode, s.fault, s.memRead c, s.output⟩, s)

/-! ### The invariant -/

/-- The reset state meets the invariant. -/
def Obligations.ResetMeetsTheInvariant : Prop := State.reset.Inv

/-- Every step keeps the invariant, from every state that has it: memory stays canonical (log entry 3), at most one flag
is 1 (R19), and the fault status is clear outside Faulted (R21) and describes the instruction at `pc` in it (R90, R97). -/
def Obligations.StepKeepsTheInvariant : Prop :=
  ∀ s t : State, s.Inv → step s = .next t → t.Inv

/-- Every host transaction keeps the invariant, from every state that has it, a `run` under any fuel and a `load` of any
bytes among them. -/
def Obligations.EveryTransactionKeepsTheInvariant : Prop :=
  ∀ (r : Request) (s : State), s.Inv → (transact r s).2.Inv

/-! ### The step transaction and the opcode fields -/

/-- R56, R53: the `step` transaction is always accepted and its state is the one the machine's step answers. That it is
accepted in every mode is the spec's decision D5. -/
def Obligations.StepTransactionIsTheStep : Prop :=
  ∀ s : State, ∃ t, step s = .next t ∧ transact .step s = (.accepted, t)

/-- R63: AA, B and C are the bits 7 and 6, the bit 5 and the bit 4 of the opcode byte, as the shifts of the source read
them. -/
def Obligations.OpcodeFieldsAreTheBitsOfTheByte : Prop :=
  ∀ ir : Byte, fieldAA ir = (ir >>> 6).toNat ∧ (fieldB ir = true ↔ (ir >>> 5) &&& 1#8 = 1#8) ∧
    (fieldC ir = true ↔ (ir >>> 4) &&& 1#8 = 1#8)
end

