-- ==== Sys2Proof/Laws/Decode.lean ====
section
/-! SUPPORT. The opcode map read both ways: no two rows overlap, and looking a mnemonic's opcode up gives it back. -/

namespace Sys2Proof

/-- No two rows of the opcode map share an opcode byte or a mnemonic. -/
theorem opcodeMap_pairwise :
    opcodeMap.Pairwise (fun p q => p.opcode ≠ q.opcode ∧ p.mnemonic ≠ q.mnemonic) := by decide

@[simp] theorem lookupOpcode_opcode (m : Mnemonic) : lookupOpcode m.opcode = some m := by cases m <;> rfl

theorem opcode_of_lookupOpcode {ir : Byte} {m : Mnemonic} (h : lookupOpcode ir = some m) : m.opcode = ir := by
  revert h; revert m ir
  decide +revert

/-- Everything the decoder can answer. -/
theorem decode_cases (ir opA opB : Byte) :
    (∃ m : Mnemonic, ir = m.opcode ∧ decode ir opA opB = .ok (buildInstr m opA opB)) ∨
      (lookupOpcode ir = none ∧ decode ir opA opB = .error (.unknownOpcode ir)) := by
  unfold decode
  cases h : lookupOpcode ir with
  | some m => exact .inl ⟨m, (opcode_of_lookupOpcode h).symm, rfl⟩
  | none => exact .inr ⟨rfl, rfl⟩

@[simp] theorem buildInstr_mnemonic (m : Mnemonic) (opA opB : Byte) : (buildInstr m opA opB).mnemonic = m := by
  cases m <;> rfl

/-! ### The length of each instruction (R38, R47) -/

@[simp] theorem length_hlt : Mnemonic.hlt.length = 1 := by decide
@[simp] theorem length_ldi : Mnemonic.ldi.length = 3 := by decide
@[simp] theorem length_prn : Mnemonic.prn.length = 2 := by decide
@[simp] theorem length_mul : Mnemonic.mul.length = 3 := by decide
@[simp] theorem length_push : Mnemonic.push.length = 2 := by decide
@[simp] theorem length_pop : Mnemonic.pop.length = 2 := by decide
@[simp] theorem length_call : Mnemonic.call.length = 2 := by decide
@[simp] theorem length_ret : Mnemonic.ret.length = 1 := by decide
@[simp] theorem length_add : Mnemonic.add.length = 3 := by decide
@[simp] theorem length_cmp : Mnemonic.cmp.length = 3 := by decide
@[simp] theorem length_jump : Mnemonic.jump.length = 2 := by decide
@[simp] theorem length_jeq : Mnemonic.jeq.length = 2 := by decide
@[simp] theorem length_jne : Mnemonic.jne.length = 2 := by decide

end Sys2Proof
end

