-- ==== Sys2Proof/Laws/State.lean ====
section
/-! SUPPORT. One lemma per field of State and per update: what the update leaves in the field. -/

namespace Sys2Proof.Machine

open Sys2Proof

variable (s : State)

/-! ### setReg -/

@[simp] theorem State.setReg_regs (r : Reg) (v : Byte) : (s.setReg r v).regs = s.regs.set r v := rfl
@[simp] theorem State.setReg_pc (r : Reg) (v : Byte) : (s.setReg r v).pc = s.pc := rfl
@[simp] theorem State.setReg_flags (r : Reg) (v : Byte) : (s.setReg r v).flags = s.flags := rfl
@[simp] theorem State.setReg_mode (r : Reg) (v : Byte) : (s.setReg r v).mode = s.mode := rfl
@[simp] theorem State.setReg_fault (r : Reg) (v : Byte) : (s.setReg r v).fault = s.fault := rfl
@[simp] theorem State.setReg_mem (r : Reg) (v : Byte) : (s.setReg r v).mem = s.mem := rfl
@[simp] theorem State.setReg_latches (r : Reg) (v : Byte) : (s.setReg r v).latches = s.latches := rfl
@[simp] theorem State.setReg_output (r : Reg) (v : Byte) : (s.setReg r v).output = s.output := rfl

/-! ### decSp -/

@[simp] theorem State.decSp_regs : (s.decSp).regs = s.regs.set .R7 (s.sp - 1#8) := rfl
@[simp] theorem State.decSp_pc : (s.decSp).pc = s.pc := rfl
@[simp] theorem State.decSp_flags : (s.decSp).flags = s.flags := rfl
@[simp] theorem State.decSp_mode : (s.decSp).mode = s.mode := rfl
@[simp] theorem State.decSp_fault : (s.decSp).fault = s.fault := rfl
@[simp] theorem State.decSp_mem : (s.decSp).mem = s.mem := rfl
@[simp] theorem State.decSp_latches : (s.decSp).latches = s.latches := rfl
@[simp] theorem State.decSp_output : (s.decSp).output = s.output := rfl

/-! ### incSp -/

@[simp] theorem State.incSp_regs : (s.incSp).regs = s.regs.set .R7 (s.sp + 1#8) := rfl
@[simp] theorem State.incSp_pc : (s.incSp).pc = s.pc := rfl
@[simp] theorem State.incSp_flags : (s.incSp).flags = s.flags := rfl
@[simp] theorem State.incSp_mode : (s.incSp).mode = s.mode := rfl
@[simp] theorem State.incSp_fault : (s.incSp).fault = s.fault := rfl
@[simp] theorem State.incSp_mem : (s.incSp).mem = s.mem := rfl
@[simp] theorem State.incSp_latches : (s.incSp).latches = s.latches := rfl
@[simp] theorem State.incSp_output : (s.incSp).output = s.output := rfl

/-! ### memWrite -/

@[simp] theorem State.memWrite_regs (a v : Byte) : (s.memWrite a v).regs = s.regs := rfl
@[simp] theorem State.memWrite_pc (a v : Byte) : (s.memWrite a v).pc = s.pc := rfl
@[simp] theorem State.memWrite_flags (a v : Byte) : (s.memWrite a v).flags = s.flags := rfl
@[simp] theorem State.memWrite_mode (a v : Byte) : (s.memWrite a v).mode = s.mode := rfl
@[simp] theorem State.memWrite_fault (a v : Byte) : (s.memWrite a v).fault = s.fault := rfl
@[simp] theorem State.memWrite_mem (a v : Byte) : (s.memWrite a v).mem = s.mem.write a v := rfl
@[simp] theorem State.memWrite_latches (a v : Byte) : (s.memWrite a v).latches = s.latches := rfl
@[simp] theorem State.memWrite_output (a v : Byte) : (s.memWrite a v).output = s.output := rfl

/-! ### setPc -/

@[simp] theorem State.setPc_regs (target : Byte) : (s.setPc target).regs = s.regs := rfl
@[simp] theorem State.setPc_pc (target : Byte) : (s.setPc target).pc = target := rfl
@[simp] theorem State.setPc_flags (target : Byte) : (s.setPc target).flags = s.flags := rfl
@[simp] theorem State.setPc_mode (target : Byte) : (s.setPc target).mode = s.mode := rfl
@[simp] theorem State.setPc_fault (target : Byte) : (s.setPc target).fault = s.fault := rfl
@[simp] theorem State.setPc_mem (target : Byte) : (s.setPc target).mem = s.mem := rfl
@[simp] theorem State.setPc_latches (target : Byte) : (s.setPc target).latches = s.latches := rfl
@[simp] theorem State.setPc_output (target : Byte) : (s.setPc target).output = s.output := rfl

/-! ### setMode -/

@[simp] theorem State.setMode_regs (m : Mode) : (s.setMode m).regs = s.regs := rfl
@[simp] theorem State.setMode_pc (m : Mode) : (s.setMode m).pc = s.pc := rfl
@[simp] theorem State.setMode_flags (m : Mode) : (s.setMode m).flags = s.flags := rfl
@[simp] theorem State.setMode_mode (m : Mode) : (s.setMode m).mode = m := rfl
@[simp] theorem State.setMode_fault (m : Mode) : (s.setMode m).fault = s.fault := rfl
@[simp] theorem State.setMode_mem (m : Mode) : (s.setMode m).mem = s.mem := rfl
@[simp] theorem State.setMode_latches (m : Mode) : (s.setMode m).latches = s.latches := rfl
@[simp] theorem State.setMode_output (m : Mode) : (s.setMode m).output = s.output := rfl

/-! ### emit -/

@[simp] theorem State.emit_regs (v : Byte) : (s.emit v).regs = s.regs := rfl
@[simp] theorem State.emit_pc (v : Byte) : (s.emit v).pc = s.pc := rfl
@[simp] theorem State.emit_flags (v : Byte) : (s.emit v).flags = s.flags := rfl
@[simp] theorem State.emit_mode (v : Byte) : (s.emit v).mode = s.mode := rfl
@[simp] theorem State.emit_fault (v : Byte) : (s.emit v).fault = s.fault := rfl
@[simp] theorem State.emit_mem (v : Byte) : (s.emit v).mem = s.mem := rfl
@[simp] theorem State.emit_latches (v : Byte) : (s.emit v).latches = s.latches := rfl
@[simp] theorem State.emit_output (v : Byte) : (s.emit v).output = s.output ++ [v] := rfl

/-! ### setFlags -/

@[simp] theorem State.setFlags_regs (f : Flags) : (s.setFlags f).regs = s.regs := rfl
@[simp] theorem State.setFlags_pc (f : Flags) : (s.setFlags f).pc = s.pc := rfl
@[simp] theorem State.setFlags_flags (f : Flags) : (s.setFlags f).flags = f := rfl
@[simp] theorem State.setFlags_mode (f : Flags) : (s.setFlags f).mode = s.mode := rfl
@[simp] theorem State.setFlags_fault (f : Flags) : (s.setFlags f).fault = s.fault := rfl
@[simp] theorem State.setFlags_mem (f : Flags) : (s.setFlags f).mem = s.mem := rfl
@[simp] theorem State.setFlags_latches (f : Flags) : (s.setFlags f).latches = s.latches := rfl
@[simp] theorem State.setFlags_output (f : Flags) : (s.setFlags f).output = s.output := rfl

/-! ### fetch -/

@[simp] theorem State.fetch_regs : (s.fetch).regs = s.regs := rfl
@[simp] theorem State.fetch_pc : (s.fetch).pc = s.pc := rfl
@[simp] theorem State.fetch_flags : (s.fetch).flags = s.flags := rfl
@[simp] theorem State.fetch_mode : (s.fetch).mode = s.mode := rfl
@[simp] theorem State.fetch_fault : (s.fetch).fault = s.fault := rfl
@[simp] theorem State.fetch_mem : (s.fetch).mem = s.mem := rfl
@[simp] theorem State.fetch_latches : (s.fetch).latches = ⟨s.memRead s.pc, s.memRead (s.pc + 1#8), s.memRead (s.pc + 2#8)⟩ := rfl
@[simp] theorem State.fetch_output : (s.fetch).output = s.output := rfl

/-! ### dropLatches -/

@[simp] theorem State.dropLatches_regs (l : Latches) : (s.dropLatches l).regs = s.regs := rfl
@[simp] theorem State.dropLatches_pc (l : Latches) : (s.dropLatches l).pc = s.pc := rfl
@[simp] theorem State.dropLatches_flags (l : Latches) : (s.dropLatches l).flags = s.flags := rfl
@[simp] theorem State.dropLatches_mode (l : Latches) : (s.dropLatches l).mode = s.mode := rfl
@[simp] theorem State.dropLatches_fault (l : Latches) : (s.dropLatches l).fault = s.fault := rfl
@[simp] theorem State.dropLatches_mem (l : Latches) : (s.dropLatches l).mem = s.mem := rfl
@[simp] theorem State.dropLatches_latches (l : Latches) : (s.dropLatches l).latches = l := rfl
@[simp] theorem State.dropLatches_output (l : Latches) : (s.dropLatches l).output = s.output := rfl

/-! ### takeFault -/

@[simp] theorem State.takeFault_regs (cause : FaultCause) (addr ir : Byte) : (s.takeFault cause addr ir).regs = s.regs := rfl
@[simp] theorem State.takeFault_pc (cause : FaultCause) (addr ir : Byte) : (s.takeFault cause addr ir).pc = s.pc := rfl
@[simp] theorem State.takeFault_flags (cause : FaultCause) (addr ir : Byte) : (s.takeFault cause addr ir).flags = s.flags := rfl
@[simp] theorem State.takeFault_mode (cause : FaultCause) (addr ir : Byte) : (s.takeFault cause addr ir).mode = .faulted := rfl
@[simp] theorem State.takeFault_fault (cause : FaultCause) (addr ir : Byte) : (s.takeFault cause addr ir).fault = ⟨cause.code, addr, ir, cause.operand⟩ := rfl
@[simp] theorem State.takeFault_mem (cause : FaultCause) (addr ir : Byte) : (s.takeFault cause addr ir).mem = s.mem := rfl
@[simp] theorem State.takeFault_latches (cause : FaultCause) (addr ir : Byte) : (s.takeFault cause addr ir).latches = s.latches := rfl
@[simp] theorem State.takeFault_output (cause : FaultCause) (addr ir : Byte) : (s.takeFault cause addr ir).output = s.output := rfl

/-! ### resetAll -/

@[simp] theorem State.resetAll_regs : (s.resetAll).regs = State.reset.regs := rfl
@[simp] theorem State.resetAll_pc : (s.resetAll).pc = Config.pcReset := rfl
@[simp] theorem State.resetAll_flags : (s.resetAll).flags = ⟨false, false, false⟩ := rfl
@[simp] theorem State.resetAll_mode : (s.resetAll).mode = .halted := rfl
@[simp] theorem State.resetAll_fault : (s.resetAll).fault = FaultStatus.clear := rfl
@[simp] theorem State.resetAll_mem : (s.resetAll).mem = [] := rfl
@[simp] theorem State.resetAll_latches : (s.resetAll).latches = State.reset.latches := rfl
@[simp] theorem State.resetAll_output : (s.resetAll).output = [] := rfl

/-! ### autoAdvance -/

@[simp] theorem State.autoAdvance_regs (m : Mnemonic) : (s.autoAdvance m).regs = s.regs := by
  unfold State.autoAdvance; split <;> rfl
@[simp] theorem State.autoAdvance_pc (m : Mnemonic) :
    (s.autoAdvance m).pc = if fieldC m.opcode then s.pc else s.pc + BitVec.ofNat 8 m.length := by
  unfold State.autoAdvance; split <;> rfl
@[simp] theorem State.autoAdvance_flags (m : Mnemonic) : (s.autoAdvance m).flags = s.flags := by
  unfold State.autoAdvance; split <;> rfl
@[simp] theorem State.autoAdvance_mode (m : Mnemonic) : (s.autoAdvance m).mode = s.mode := by
  unfold State.autoAdvance; split <;> rfl
@[simp] theorem State.autoAdvance_fault (m : Mnemonic) : (s.autoAdvance m).fault = s.fault := by
  unfold State.autoAdvance; split <;> rfl
@[simp] theorem State.autoAdvance_mem (m : Mnemonic) : (s.autoAdvance m).mem = s.mem := by
  unfold State.autoAdvance; split <;> rfl
@[simp] theorem State.autoAdvance_latches (m : Mnemonic) : (s.autoAdvance m).latches = s.latches := by
  unfold State.autoAdvance; split <;> rfl
@[simp] theorem State.autoAdvance_output (m : Mnemonic) : (s.autoAdvance m).output = s.output := by
  unfold State.autoAdvance; split <;> rfl

/-! ### Reads through an update -/

@[simp] theorem State.memWrite_reg (a v : Byte) (r : Reg) : (s.memWrite a v).reg r = s.reg r := rfl
@[simp] theorem State.memWrite_sp (a v : Byte) : (s.memWrite a v).sp = s.sp := rfl
@[simp] theorem State.setPc_reg (target : Byte) (r : Reg) : (s.setPc target).reg r = s.reg r := rfl
@[simp] theorem State.setPc_sp (target : Byte) : (s.setPc target).sp = s.sp := rfl
@[simp] theorem State.setMode_reg (m : Mode) (r : Reg) : (s.setMode m).reg r = s.reg r := rfl
@[simp] theorem State.setMode_sp (m : Mode) : (s.setMode m).sp = s.sp := rfl
@[simp] theorem State.emit_reg (v : Byte) (r : Reg) : (s.emit v).reg r = s.reg r := rfl
@[simp] theorem State.emit_sp (v : Byte) : (s.emit v).sp = s.sp := rfl
@[simp] theorem State.setFlags_reg (f : Flags) (r : Reg) : (s.setFlags f).reg r = s.reg r := rfl
@[simp] theorem State.setFlags_sp (f : Flags) : (s.setFlags f).sp = s.sp := rfl
@[simp] theorem State.fetch_reg (r : Reg) : (s.fetch).reg r = s.reg r := rfl
@[simp] theorem State.fetch_sp : (s.fetch).sp = s.sp := rfl
@[simp] theorem State.dropLatches_reg (l : Latches) (r : Reg) : (s.dropLatches l).reg r = s.reg r := rfl
@[simp] theorem State.dropLatches_sp (l : Latches) : (s.dropLatches l).sp = s.sp := rfl
@[simp] theorem State.takeFault_reg (cause : FaultCause) (addr ir : Byte) (r : Reg) : (s.takeFault cause addr ir).reg r = s.reg r := rfl
@[simp] theorem State.takeFault_sp (cause : FaultCause) (addr ir : Byte) : (s.takeFault cause addr ir).sp = s.sp := rfl
@[simp] theorem State.autoAdvance_reg (m : Mnemonic) (r : Reg) : (s.autoAdvance m).reg r = s.reg r := by
  simp [State.reg]
@[simp] theorem State.autoAdvance_sp (m : Mnemonic) : (s.autoAdvance m).sp = s.sp := by
  simp [State.sp]

@[simp] theorem State.setReg_memRead (r : Reg) (v : Byte) (c : Byte) : (s.setReg r v).memRead c = s.memRead c := rfl
@[simp] theorem State.decSp_memRead (c : Byte) : (s.decSp).memRead c = s.memRead c := rfl
@[simp] theorem State.incSp_memRead (c : Byte) : (s.incSp).memRead c = s.memRead c := rfl
@[simp] theorem State.setPc_memRead (target : Byte) (c : Byte) : (s.setPc target).memRead c = s.memRead c := rfl
@[simp] theorem State.setMode_memRead (m : Mode) (c : Byte) : (s.setMode m).memRead c = s.memRead c := rfl
@[simp] theorem State.emit_memRead (v : Byte) (c : Byte) : (s.emit v).memRead c = s.memRead c := rfl
@[simp] theorem State.setFlags_memRead (f : Flags) (c : Byte) : (s.setFlags f).memRead c = s.memRead c := rfl
@[simp] theorem State.fetch_memRead (c : Byte) : (s.fetch).memRead c = s.memRead c := rfl
@[simp] theorem State.dropLatches_memRead (l : Latches) (c : Byte) : (s.dropLatches l).memRead c = s.memRead c := rfl
@[simp] theorem State.takeFault_memRead (cause : FaultCause) (addr ir : Byte) (c : Byte) : (s.takeFault cause addr ir).memRead c = s.memRead c := rfl
@[simp] theorem State.autoAdvance_memRead (m : Mnemonic) (c : Byte) :
    (s.autoAdvance m).memRead c = s.memRead c := by
  simp [State.memRead]

end Sys2Proof.Machine
end

