-- ==== Sys2Proof/Laws/Registers.lean ====
section
/-! SUPPORT. The register file: reading after writing, and the bytes that name registers. -/

namespace Sys2Proof

@[simp] theorem asReg_byte (r : Reg) : asReg r.byte = some r := by cases r <;> rfl

theorem byte_of_asReg {a : Byte} {r : Reg} (h : asReg a = some r) : a = r.byte := by
  revert r h; revert a; decide

theorem asReg_eq_none_iff (a : Byte) : asReg a = none ↔ 8 ≤ a.toNat := by
  revert a; decide

/-- Every byte names a register or is 8 or more (R45). -/
theorem reg_byte_or_bad (a : Byte) : (∃ r : Reg, a = r.byte) ∨ 8 ≤ a.toNat := by
  cases h : asReg a with
  | some r => exact .inl ⟨r, byte_of_asReg h⟩
  | none => exact .inr ((asReg_eq_none_iff a).1 h)

@[simp] theorem isRegIndex_byte (r : Reg) : isRegIndex r.byte = true := by cases r <;> rfl

theorem isRegIndex_eq_false_iff (a : Byte) : isRegIndex a = false ↔ 8 ≤ a.toNat := by
  simp [isRegIndex]

theorem reg_byte_injective {r q : Reg} (h : r.byte = q.byte) : r = q := by
  revert h; cases r <;> cases q <;> decide

end Sys2Proof

namespace Sys2Proof.Machine

open Sys2Proof

@[simp] theorem Regs.get_set_self (x : Regs) (r : Reg) (v : Byte) : (x.set r v).get r = v := by
  cases r <;> rfl

theorem Regs.get_set_of_ne (x : Regs) {r q : Reg} (v : Byte) (h : q ≠ r) : (x.set r v).get q = x.get q := by
  cases r <;> cases q <;> first | rfl | exact absurd rfl h

theorem Regs.get_set (x : Regs) (r q : Reg) (v : Byte) :
    (x.set r v).get q = if q = r then v else x.get q := by
  split
  · next h => rw [h, Regs.get_set_self]
  · next h => exact Regs.get_set_of_ne x v h

@[simp] theorem State.setReg_reg (s : State) (r q : Reg) (v : Byte) :
    (s.setReg r v).reg q = if q = r then v else s.reg q := Regs.get_set s.regs r q v

theorem State.setReg_sp (s : State) (r : Reg) (v : Byte) :
    (s.setReg r v).sp = if .R7 = r then v else s.sp := s.setReg_reg r .R7 v

@[simp] theorem State.decSp_reg (s : State) (q : Reg) :
    s.decSp.reg q = if q = .R7 then s.sp - 1#8 else s.reg q := s.setReg_reg .R7 q _

@[simp] theorem State.incSp_reg (s : State) (q : Reg) :
    s.incSp.reg q = if q = .R7 then s.sp + 1#8 else s.reg q := s.setReg_reg .R7 q _

@[simp] theorem State.decSp_sp (s : State) : s.decSp.sp = s.sp - 1#8 := rfl

@[simp] theorem State.incSp_sp (s : State) : s.incSp.sp = s.sp + 1#8 := rfl

/-- The stack pointer is register 7 (R8, R13). -/
theorem State.sp_eq (s : State) : s.sp = s.reg .R7 := rfl

end Sys2Proof.Machine
end

