-- ==== Sys2Proof/Laws/Operands.lean ====
section
/-! SUPPORT. What the operand shapes can do: either the operands name registers and the effect runs after the
auto-advance, or InvalidRegister is taken with the first byte that names none. -/

namespace Sys2Proof.Machine

open Sys2Proof

variable (m : Mnemonic) (s : State)

theorem withNoReg_eq (effect : State → State) : withNoReg m effect s = .next (effect (s.autoAdvance m)) := rfl

@[simp] theorem withReg_byte (ra : Reg) (effect : Reg → State → State) :
    withReg m ra.byte effect s = .next (effect ra (s.autoAdvance m)) := by
  simp [withReg]

theorem withReg_bad {a : Byte} (effect : Reg → State → State) (h : 8 ≤ a.toNat) :
    withReg m a effect s = .next (s.invalidRegister m a) := by
  simp [withReg, (asReg_eq_none_iff a).2 h]

@[simp] theorem withTwoRegs_byte (ra rb : Reg) (effect : Reg → Reg → State → State) :
    withTwoRegs m ra.byte rb.byte effect s = .next (effect ra rb (s.autoAdvance m)) := by
  simp [withTwoRegs]

theorem withTwoRegs_bad_first {a : Byte} (b : Byte) (effect : Reg → Reg → State → State) (h : 8 ≤ a.toNat) :
    withTwoRegs m a b effect s = .next (s.invalidRegister m a) := by
  simp [withTwoRegs, (asReg_eq_none_iff a).2 h]

theorem withTwoRegs_bad_second (ra : Reg) {b : Byte} (effect : Reg → Reg → State → State) (h : 8 ≤ b.toNat) :
    withTwoRegs m ra.byte b effect s = .next (s.invalidRegister m b) := by
  simp [withTwoRegs, (asReg_eq_none_iff b).2 h]

/-- Everything `withReg` can do. -/
theorem withReg_cases (a : Byte) (effect : Reg → State → State) :
    (∃ ra : Reg, a = ra.byte ∧ withReg m a effect s = .next (effect ra (s.autoAdvance m))) ∨
      (8 ≤ a.toNat ∧ withReg m a effect s = .next (s.invalidRegister m a)) := by
  obtain ⟨ra, rfl⟩ | h := reg_byte_or_bad a
  · exact .inl ⟨ra, rfl, withReg_byte m s ra effect⟩
  · exact .inr ⟨h, withReg_bad m s effect h⟩

/-- Everything `withTwoRegs` can do. -/
theorem withTwoRegs_cases (a b : Byte) (effect : Reg → Reg → State → State) :
    (∃ ra rb : Reg, a = ra.byte ∧ b = rb.byte ∧
      withTwoRegs m a b effect s = .next (effect ra rb (s.autoAdvance m))) ∨
    (8 ≤ a.toNat ∧ withTwoRegs m a b effect s = .next (s.invalidRegister m a)) ∨
    (∃ ra : Reg, a = ra.byte ∧ 8 ≤ b.toNat ∧ withTwoRegs m a b effect s = .next (s.invalidRegister m b)) := by
  obtain ⟨ra, rfl⟩ | h := reg_byte_or_bad a
  · obtain ⟨rb, rfl⟩ | h := reg_byte_or_bad b
    · exact .inl ⟨ra, rb, rfl, rfl, withTwoRegs_byte m s ra rb effect⟩
    · exact .inr (.inr ⟨ra, rfl, h, withTwoRegs_bad_second m s ra effect h⟩)
  · exact .inr (.inl ⟨h, withTwoRegs_bad_first m s b effect h⟩)

/-! ### InvalidRegister changes the fault status and the mode alone -/

variable (operand : Byte)

@[simp] theorem State.invalidRegister_mode : (s.invalidRegister m operand).mode = .faulted := rfl
@[simp] theorem State.invalidRegister_fault :
    (s.invalidRegister m operand).fault = ⟨.invalidRegister, s.pc, m.opcode, operand⟩ := rfl
@[simp] theorem State.invalidRegister_regs : (s.invalidRegister m operand).regs = s.regs := rfl
@[simp] theorem State.invalidRegister_pc : (s.invalidRegister m operand).pc = s.pc := rfl
@[simp] theorem State.invalidRegister_flags : (s.invalidRegister m operand).flags = s.flags := rfl
@[simp] theorem State.invalidRegister_mem : (s.invalidRegister m operand).mem = s.mem := rfl
@[simp] theorem State.invalidRegister_latches : (s.invalidRegister m operand).latches = s.latches := rfl
@[simp] theorem State.invalidRegister_output : (s.invalidRegister m operand).output = s.output := rfl

end Sys2Proof.Machine
end

