-- ==== Sys2Proof/Laws/Instructions.lean ====
section
/-! SUPPORT. Each instruction's next state when its operands name registers, as one equation, and its other outcome. The
auto-advance is written out as the new `pc`. -/

namespace Sys2Proof.Machine

open Sys2Proof

/-! ### The auto-advance of each instruction -/

variable (s : State)

@[simp] theorem autoAdvance_hlt : s.autoAdvance .hlt = s.setPc (s.pc + 1#8) := rfl
@[simp] theorem autoAdvance_ldi : s.autoAdvance .ldi = s.setPc (s.pc + 3#8) := rfl
@[simp] theorem autoAdvance_prn : s.autoAdvance .prn = s.setPc (s.pc + 2#8) := rfl
@[simp] theorem autoAdvance_mul : s.autoAdvance .mul = s.setPc (s.pc + 3#8) := rfl
@[simp] theorem autoAdvance_push : s.autoAdvance .push = s.setPc (s.pc + 2#8) := rfl
@[simp] theorem autoAdvance_pop : s.autoAdvance .pop = s.setPc (s.pc + 2#8) := rfl
@[simp] theorem autoAdvance_call : s.autoAdvance .call = s := rfl
@[simp] theorem autoAdvance_ret : s.autoAdvance .ret = s := rfl
@[simp] theorem autoAdvance_add : s.autoAdvance .add = s.setPc (s.pc + 3#8) := rfl
@[simp] theorem autoAdvance_cmp : s.autoAdvance .cmp = s.setPc (s.pc + 3#8) := rfl
@[simp] theorem autoAdvance_jump : s.autoAdvance .jump = s := rfl
@[simp] theorem autoAdvance_jeq : s.autoAdvance .jeq = s := rfl
@[simp] theorem autoAdvance_jne : s.autoAdvance .jne = s := rfl

/-! ### The effects -/

variable (ra rb : Reg)

theorem exec_hlt : exec .hlt s = .next ((s.setPc (s.pc + 1#8)).setMode .halted) := rfl

theorem exec_ldi (imm : Byte) : exec (.ldi ra.byte imm) s = .next ((s.setPc (s.pc + 3#8)).setReg ra imm) :=
  withReg_byte .ldi s ra (fun r u => u.setReg r imm)

theorem exec_prn : exec (.prn ra.byte) s = .next ((s.setPc (s.pc + 2#8)).emit (s.reg ra)) :=
  withReg_byte .prn s ra (fun r u => u.emit (u.reg r))

theorem exec_add :
    exec (.add ra.byte rb.byte) s = .next ((s.setPc (s.pc + 3#8)).setReg ra (s.reg ra + s.reg rb)) :=
  withTwoRegs_byte .add s ra rb _

theorem exec_mul :
    exec (.mul ra.byte rb.byte) s = .next ((s.setPc (s.pc + 3#8)).setReg ra (s.reg ra * s.reg rb)) :=
  withTwoRegs_byte .mul s ra rb _

theorem exec_cmp :
    exec (.cmp ra.byte rb.byte) s =
      .next ((s.setPc (s.pc + 3#8)).setFlags (compareFlags (s.reg ra) (s.reg rb))) :=
  withTwoRegs_byte .cmp s ra rb _

theorem exec_push : exec (.push ra.byte) s = .next (pushReg ra (s.setPc (s.pc + 2#8))) :=
  withReg_byte .push s ra _

theorem exec_pop : exec (.pop ra.byte) s = .next (popReg ra (s.setPc (s.pc + 2#8))) :=
  withReg_byte .pop s ra _

theorem exec_call : exec (.call ra.byte) s = .next (callReg ra s) := withReg_byte .call s ra _

theorem exec_ret : exec .ret s = .next (returnFromCall s) := rfl

theorem exec_jump : exec (.jump ra.byte) s = .next (s.setPc (s.reg ra)) := withReg_byte .jump s ra _

theorem exec_jeq : exec (.jeq ra.byte) s = .next (branchIf s.flags.E ra s) := withReg_byte .jeq s ra _

theorem exec_jne : exec (.jne ra.byte) s = .next (branchIf (!s.flags.E) ra s) := withReg_byte .jne s ra _

/-! ### What the stack and branch effects leave in each field -/

@[simp] theorem pushReg_regs : (pushReg ra s).regs = s.regs.set .R7 (s.sp - 1#8) := rfl
@[simp] theorem pushReg_pc : (pushReg ra s).pc = s.pc := rfl
@[simp] theorem pushReg_flags : (pushReg ra s).flags = s.flags := rfl
@[simp] theorem pushReg_mode : (pushReg ra s).mode = s.mode := rfl
@[simp] theorem pushReg_fault : (pushReg ra s).fault = s.fault := rfl
@[simp] theorem pushReg_mem : (pushReg ra s).mem = s.mem.write (s.sp - 1#8) (s.decSp.reg ra) := rfl
@[simp] theorem pushReg_latches : (pushReg ra s).latches = s.latches := rfl
@[simp] theorem pushReg_output : (pushReg ra s).output = s.output := rfl

@[simp] theorem popReg_pc : (popReg ra s).pc = s.pc := rfl
@[simp] theorem popReg_flags : (popReg ra s).flags = s.flags := rfl
@[simp] theorem popReg_mode : (popReg ra s).mode = s.mode := rfl
@[simp] theorem popReg_fault : (popReg ra s).fault = s.fault := rfl
@[simp] theorem popReg_mem : (popReg ra s).mem = s.mem := rfl
@[simp] theorem popReg_latches : (popReg ra s).latches = s.latches := rfl
@[simp] theorem popReg_output : (popReg ra s).output = s.output := rfl
theorem popReg_reg (q : Reg) : (popReg ra s).reg q =
    if q = .R7 then (if ra = .R7 then s.memRead s.sp else s.sp) + 1#8
    else if q = ra then s.memRead s.sp else s.reg q := by
  cases ra <;> cases q <;> rfl

@[simp] theorem callReg_regs : (callReg ra s).regs = s.regs.set .R7 (s.sp - 1#8) := rfl
@[simp] theorem callReg_pc : (callReg ra s).pc = s.decSp.reg ra := rfl
@[simp] theorem callReg_flags : (callReg ra s).flags = s.flags := rfl
@[simp] theorem callReg_mode : (callReg ra s).mode = s.mode := rfl
@[simp] theorem callReg_fault : (callReg ra s).fault = s.fault := rfl
@[simp] theorem callReg_mem : (callReg ra s).mem = s.mem.write (s.sp - 1#8) (s.pc + 2#8) := rfl
@[simp] theorem callReg_latches : (callReg ra s).latches = s.latches := rfl
@[simp] theorem callReg_output : (callReg ra s).output = s.output := rfl

@[simp] theorem returnFromCall_regs : (returnFromCall s).regs = s.regs.set .R7 (s.sp + 1#8) := rfl
@[simp] theorem returnFromCall_pc : (returnFromCall s).pc = s.memRead s.sp := rfl
@[simp] theorem returnFromCall_flags : (returnFromCall s).flags = s.flags := rfl
@[simp] theorem returnFromCall_mode : (returnFromCall s).mode = s.mode := rfl
@[simp] theorem returnFromCall_fault : (returnFromCall s).fault = s.fault := rfl
@[simp] theorem returnFromCall_mem : (returnFromCall s).mem = s.mem := rfl
@[simp] theorem returnFromCall_latches : (returnFromCall s).latches = s.latches := rfl
@[simp] theorem returnFromCall_output : (returnFromCall s).output = s.output := rfl

/-- A branch writes `pc` alone. -/
theorem branchIf_eq (taken : Bool) :
    branchIf taken ra s = s.setPc (if taken then s.reg ra else s.pc + 2#8) := rfl

/-- The flags of CMP, one by one (R73). -/
theorem compareFlags_E (x y : Byte) : (compareFlags x y).E = true ↔ x = y := by
  unfold compareFlags; split <;> [skip; split] <;> simp_all

theorem compareFlags_L (x y : Byte) : (compareFlags x y).L = true ↔ x.toNat < y.toNat := by
  unfold compareFlags; split <;> [skip; split] <;> simp_all

theorem compareFlags_G (x y : Byte) : (compareFlags x y).G = true ↔ y.toNat < x.toNat := by
  unfold compareFlags
  split
  · next h => simp [h]
  · next h =>
    have hne : x.toNat ≠ y.toNat := fun e => h (BitVec.eq_of_toNat_eq e)
    split <;> simp <;> omega

theorem compareFlags_count (x y : Byte) :
    [(compareFlags x y).E, (compareFlags x y).L, (compareFlags x y).G].count true = 1 := by
  unfold compareFlags; split <;> [skip; split] <;> rfl

/-! ### The register check -/

/-- An instruction with a register operand that names no register takes InvalidRegister with the first such byte (R65,
R93). -/
theorem exec_of_badOperand {i : Instr} {operand : Byte} (h : i.badOperand = some operand) :
    exec i s = .next (s.invalidRegister i.mnemonic operand) := by
  have one : ∀ {a : Byte}, List.find? (fun b => !isRegIndex b) [a] = some operand → 8 ≤ operand.toNat ∧ a = operand := by
    intro a ha
    have hb := List.find?_some ha
    simp only [Bool.not_eq_true', isRegIndex_eq_false_iff] at hb
    exact ⟨hb, (List.mem_singleton.1 (List.mem_of_find?_eq_some ha)).symm⟩
  have two : ∀ {m : Mnemonic} {a b : Byte} (effect : Reg → Reg → State → State),
      List.find? (fun b => !isRegIndex b) [a, b] = some operand →
      withTwoRegs m a b effect s = .next (s.invalidRegister m operand) := by
    intro m a b effect hab
    obtain ⟨ra, rfl⟩ | ha := reg_byte_or_bad a
    · rw [List.find?_cons_of_neg (by simp)] at hab
      obtain ⟨hb, rfl⟩ := one hab
      exact withTwoRegs_bad_second m s ra effect hb
    · rw [List.find?_cons_of_pos (by simpa [isRegIndex_eq_false_iff] using ha)] at hab
      cases hab
      exact withTwoRegs_bad_first m s b effect ha
  cases i with
  | hlt | ret => cases h
  | add a b | mul a b | cmp a b => exact two _ h
  | ldi a imm => obtain ⟨hb, rfl⟩ := one h; exact withReg_bad .ldi s (fun r u => u.setReg r imm) hb
  | prn a => obtain ⟨hb, rfl⟩ := one h; exact withReg_bad .prn s (fun r u => u.emit (u.reg r)) hb
  | push a | pop a | call a | jump a | jeq a | jne a => obtain ⟨hb, rfl⟩ := one h; exact withReg_bad _ s _ hb

/-- Every instruction is ill-formed, or its register operands name registers. -/
theorem wellFormed_iff_badOperand (i : Instr) : i.wellFormed = true ↔ i.badOperand = none := by
  simp [Instr.wellFormed, Instr.badOperand, List.find?_eq_none]

end Sys2Proof.Machine
end

