-- ==== Sys2Proof/Laws/Memory.lean ====
section
/-! SUPPORT. Memory: reading after writing, and that every write keeps the canonical form. -/

namespace Sys2Proof.Machine

open Sys2Proof

theorem Memory.wfFrom_mono {m : Memory} {lo lo' : Nat} (h : lo' ≤ lo) (hm : Memory.wfFrom lo m = true) :
    Memory.wfFrom lo' m = true := by
  cases m with
  | nil => rfl
  | cons c rest =>
    simp only [Memory.wfFrom, Bool.and_eq_true, decide_eq_true_eq] at hm ⊢
    exact ⟨⟨⟨by omega, hm.1.1.2⟩, hm.1.2⟩, hm.2⟩

/-- In a canonical list nothing below the bound is listed. -/
theorem Memory.lookup_below {m : Memory} {lo a : Nat} (hm : Memory.wfFrom lo m = true) (ha : a < lo) :
    m.lookup a = Config.unlistedCell := by
  induction m generalizing lo with
  | nil => rfl
  | cons c rest ih =>
    simp only [Memory.wfFrom, Bool.and_eq_true, decide_eq_true_eq] at hm
    rw [Memory.lookup, if_neg (by omega)]
    exact ih hm.2 (by omega)

theorem Memory.lookup_put_of_ne (m : Memory) {a b : Nat} (v : Byte) (h : b ≠ a) :
    (m.put a v).lookup b = m.lookup b := by
  induction m with
  | nil => unfold Memory.put; split <;> simp [Memory.lookup, Ne.symm h]
  | cons c rest ih =>
    obtain ⟨addr, w⟩ := c
    unfold Memory.put
    split
    · split
      · rfl
      · simp [Memory.lookup, Ne.symm h]
    · split
      · next _ heq =>
        subst heq
        split <;> simp [Memory.lookup, Ne.symm h]
      · simp only [Memory.lookup, ih]

theorem Memory.lookup_put_self {m : Memory} {lo : Nat} (hm : Memory.wfFrom lo m = true) (a : Nat) (v : Byte) :
    (m.put a v).lookup a = v := by
  induction m generalizing lo with
  | nil => unfold Memory.put; split <;> simp_all [Memory.lookup]
  | cons c rest ih =>
    obtain ⟨addr, w⟩ := c
    have hrest : Memory.wfFrom (addr + 1) rest = true := by
      simp only [Memory.wfFrom, Bool.and_eq_true] at hm; exact hm.2
    unfold Memory.put
    split
    · next hlt =>
      split
      · next hv =>
        rw [Memory.lookup, if_neg (by omega), hv]
        exact Memory.lookup_below hrest (by omega)
      · simp [Memory.lookup]
    · split
      · next _ heq =>
        split
        · next hv => rw [hv]; exact Memory.lookup_below hrest (by omega)
        · simp [Memory.lookup]
      · next _ hne => rw [Memory.lookup, if_neg hne]; exact ih hrest

theorem Memory.put_wfFrom {m : Memory} {lo a : Nat} {v : Byte} (hm : Memory.wfFrom lo m = true) (hlo : lo ≤ a)
    (ha : a < Config.memSize) : Memory.wfFrom lo (m.put a v) = true := by
  induction m generalizing lo with
  | nil => unfold Memory.put; split <;> simp_all [Memory.wfFrom]
  | cons c rest ih =>
    obtain ⟨addr, w⟩ := c
    have hm' := hm
    simp only [Memory.wfFrom, Bool.and_eq_true, decide_eq_true_eq] at hm'
    unfold Memory.put
    split
    · split
      · exact hm
      · simp only [Memory.wfFrom, Bool.and_eq_true, decide_eq_true_eq]
        exact ⟨⟨⟨hlo, ha⟩, ‹_›⟩, ⟨⟨by omega, hm'.1.1.2⟩, hm'.1.2⟩, hm'.2⟩
    · split
      · next _ heq =>
        split
        · exact Memory.wfFrom_mono (by omega) hm'.2
        · simp only [Memory.wfFrom, Bool.and_eq_true, decide_eq_true_eq]
          exact ⟨⟨⟨hlo, ha⟩, ‹_›⟩, by rw [← heq]; exact hm'.2⟩
      · next hnlt hne =>
        simp only [Memory.wfFrom, Bool.and_eq_true, decide_eq_true_eq]
        exact ⟨hm'.1, ih hm'.2 (by omega)⟩

/-- A write keeps the canonical form. -/
theorem Memory.write_wf {m : Memory} (hm : m.wf = true) (a v : Byte) : (m.write a v).wf = true :=
  Memory.put_wfFrom hm (Nat.zero_le _) a.isLt

theorem Memory.read_write_self {m : Memory} (hm : m.wf = true) (a v : Byte) : (m.write a v).read a = v :=
  Memory.lookup_put_self hm a.toNat v

theorem Memory.read_write_of_ne (m : Memory) {a c : Byte} (v : Byte) (h : c ≠ a) :
    (m.write a v).read c = m.read c :=
  Memory.lookup_put_of_ne m v (fun e => h (BitVec.eq_of_toNat_eq e))

theorem State.memRead_memWrite_self {s : State} (hm : s.mem.wf = true) (a v : Byte) :
    (s.memWrite a v).memRead a = v := Memory.read_write_self hm a v

theorem State.memRead_memWrite_of_ne (s : State) {a c : Byte} (v : Byte) (h : c ≠ a) :
    (s.memWrite a v).memRead c = s.memRead c := Memory.read_write_of_ne s.mem v h

/-! ### The load port's writes -/

/-- Loading changes memory alone, and keeps its canonical form. -/
theorem State.writeBytes_eq (bytes : List Byte) (s : State) (base : Byte) :
    ∃ m, s.writeBytes base bytes = { s with mem := m } ∧ (s.mem.wf = true → m.wf = true) := by
  induction bytes generalizing s base with
  | nil => exact ⟨s.mem, rfl, id⟩
  | cons v rest ih =>
    obtain ⟨m, hm, hwf⟩ := ih (s.memWrite base v) (base + 1#8)
    exact ⟨m, hm, fun h => hwf (Memory.write_wf h base v)⟩

end Sys2Proof.Machine
end

