-- ==== Sys2Proof/Laws/PerInstr.lean ====
section
/-! SUPPORT. A property of every instruction as syntax, one lemma per constructor: its encoding begins with its opcode byte
and has 1 + AA bytes (R38). -/

namespace Sys2Proof.Laws.EncodedLength

open Sys2Proof

/-- The encoding begins with the mnemonic's opcode byte, and its length is the one the opcode byte's AA field gives. -/
def Statement (i : Instr) : Prop :=
  (encode i).head? = some i.mnemonic.opcode ∧ (encode i).length = i.mnemonic.length

theorem hlt : Statement .hlt := ⟨rfl, by simp [encode, Instr.operands, Instr.mnemonic]⟩
theorem ldi (a imm : Byte) : Statement (.ldi a imm) := ⟨rfl, by simp [encode, Instr.operands, Instr.mnemonic]⟩
theorem prn (a : Byte) : Statement (.prn a) := ⟨rfl, by simp [encode, Instr.operands, Instr.mnemonic]⟩
theorem mul (a b : Byte) : Statement (.mul a b) := ⟨rfl, by simp [encode, Instr.operands, Instr.mnemonic]⟩
theorem push (a : Byte) : Statement (.push a) := ⟨rfl, by simp [encode, Instr.operands, Instr.mnemonic]⟩
theorem pop (a : Byte) : Statement (.pop a) := ⟨rfl, by simp [encode, Instr.operands, Instr.mnemonic]⟩
theorem call (a : Byte) : Statement (.call a) := ⟨rfl, by simp [encode, Instr.operands, Instr.mnemonic]⟩
theorem ret : Statement .ret := ⟨rfl, by simp [encode, Instr.operands, Instr.mnemonic]⟩
theorem add (a b : Byte) : Statement (.add a b) := ⟨rfl, by simp [encode, Instr.operands, Instr.mnemonic]⟩
theorem cmp (a b : Byte) : Statement (.cmp a b) := ⟨rfl, by simp [encode, Instr.operands, Instr.mnemonic]⟩
theorem jump (a : Byte) : Statement (.jump a) := ⟨rfl, by simp [encode, Instr.operands, Instr.mnemonic]⟩
theorem jeq (a : Byte) : Statement (.jeq a) := ⟨rfl, by simp [encode, Instr.operands, Instr.mnemonic]⟩
theorem jne (a : Byte) : Statement (.jne a) := ⟨rfl, by simp [encode, Instr.operands, Instr.mnemonic]⟩

end Sys2Proof.Laws.EncodedLength
end

