-- ==== Sys2Proof/Laws/Step.lean ====
section
/-! SUPPORT. What one step can do, and what dropping the latches leaves: the step's cases are cited instead of unfolding
it. -/

namespace Sys2Proof.Machine

open Sys2Proof

@[simp] theorem State.executes_eq_true (s : State) : s.executes = true ↔ s.mode = .running := by
  simp [State.executes]

@[simp] theorem endStep_next (l : Latches) (s : State) : endStep l (.next s) = .next (s.dropLatches l) := rfl

theorem SameArch.refl (s : State) : SameArch s s := ⟨rfl, rfl, rfl, rfl, rfl, rfl, rfl⟩

theorem SameArch.symm {s t : State} (h : SameArch s t) : SameArch t s := by
  obtain ⟨h1, h2, h3, h4, h5, h6, h7⟩ := h
  exact ⟨h1.symm, h2.symm, h3.symm, h4.symm, h5.symm, h6.symm, h7.symm⟩

theorem SameArch.trans {s t u : State} (h : SameArch s t) (k : SameArch t u) : SameArch s u := by
  obtain ⟨h1, h2, h3, h4, h5, h6, h7⟩ := h
  obtain ⟨k1, k2, k3, k4, k5, k6, k7⟩ := k
  exact ⟨k1.trans h1, k2.trans h2, k3.trans h3, k4.trans h4, k5.trans h5, k6.trans h6, k7.trans h7⟩

theorem sameArch_fetch (s : State) : SameArch s s.fetch := SameArch.refl s

theorem sameArch_dropLatches (l : Latches) (s : State) : SameArch s (s.dropLatches l) := SameArch.refl s

@[simp] theorem State.fetch_nextInstr (s : State) : s.fetch.nextInstr = s.nextInstr := rfl

theorem State.nextInstr_of_sameArch {s t : State} (h : SameArch s t) : t.nextInstr = s.nextInstr := by
  obtain ⟨_, hpc, _, _, _, hmem, _⟩ := h
  simp only [State.nextInstr, State.memRead, hpc, hmem]

theorem step_of_not_running {s : State} (h : s.mode ≠ .running) : step s = .next s := by
  have : s.executes = false := by simpa [State.executes] using h
  simp [step, this]

theorem step_of_instr {s : State} {i : Instr} (hm : s.mode = .running) (hi : s.nextInstr = .ok i) :
    step s = endStep s.latchResidue (exec i s.fetch) := by
  have : s.executes = true := by simpa using hm
  simp only [step, this, if_true, State.fetch_latches]
  rw [show decode (s.memRead s.pc) (s.memRead (s.pc + 1#8)) (s.memRead (s.pc + 2#8)) = .ok i from hi]

theorem step_of_unknown {s : State} {ir : Byte} (hm : s.mode = .running)
    (hi : s.nextInstr = .error (.unknownOpcode ir)) :
    step s = .next ((s.fetch.takeFault .unknownOpcode s.pc ir).dropLatches s.latchResidue) := by
  have : s.executes = true := by simpa using hm
  simp only [step, this, if_true, State.fetch_latches]
  rw [show decode (s.memRead s.pc) (s.memRead (s.pc + 1#8)) (s.memRead (s.pc + 2#8)) = .error (.unknownOpcode ir)
    from hi]
  rfl

/-- Everything the next instruction can be: an instruction of the map at `pc`, or an opcode byte outside it. -/
theorem State.nextInstr_cases (s : State) :
    (∃ m : Mnemonic, s.memRead s.pc = m.opcode ∧
      s.nextInstr = .ok (buildInstr m (s.memRead (s.pc + 1#8)) (s.memRead (s.pc + 2#8)))) ∨
    (lookupOpcode (s.memRead s.pc) = none ∧ s.nextInstr = .error (.unknownOpcode (s.memRead s.pc))) :=
  decode_cases _ _ _

/-- Everything a step can do: nothing unless Running; else run the instruction at `pc`, or take UnknownOpcode. -/
theorem step_cases (s : State) :
    (s.mode ≠ .running ∧ step s = .next s) ∨
    (s.mode = .running ∧ ∃ i, s.nextInstr = .ok i ∧ i.mnemonic.opcode = s.memRead s.pc ∧
      step s = endStep s.latchResidue (exec i s.fetch)) ∨
    (s.mode = .running ∧ lookupOpcode (s.memRead s.pc) = none ∧
      s.nextInstr = .error (.unknownOpcode (s.memRead s.pc)) ∧
      step s = .next ((s.fetch.takeFault .unknownOpcode s.pc (s.memRead s.pc)).dropLatches s.latchResidue)) := by
  by_cases hm : s.mode = .running
  · obtain ⟨m, hop, hi⟩ | ⟨hop, hi⟩ := s.nextInstr_cases
    · exact .inr (.inl ⟨hm, _, hi, by simp [hop], step_of_instr hm hi⟩)
    · exact .inr (.inr ⟨hm, hop, hi, step_of_unknown hm hi⟩)
  · exact .inl ⟨hm, step_of_not_running hm⟩

/-- The `step` transaction's state is the one the step answers. -/
theorem State.afterStep_of_step {s t : State} (h : step s = .next t) : s.afterStep = t := by
  simp only [State.afterStep, h]

@[simp] theorem runWhile_zero (s : State) : runWhile 0 s = (!s.executes, s) := rfl

/-- The host interface's `k + 1` steps are the step and then `k` more. -/
theorem core_run_succ {s t : State} (h : step s = .next t) (k : Nat) :
    Host.Core.run Sys2Proof.core (k + 1) s = Host.Core.run Sys2Proof.core k t := by
  have run_succ : ∀ (M : Host.Core) (a b : M.State), M.step a = .next b → M.run (k + 1) a = M.run k b :=
    fun M a b hab => by simp only [Host.Core.run, hab]
  exact run_succ Sys2Proof.core s t h

/-- A run takes its next step while Running. -/
theorem runWhile_of_running {s : State} (h : s.mode = .running) (fuel : Nat) :
    runWhile (fuel + 1) s = runWhile fuel s.afterStep := by
  simp only [runWhile, (State.executes_eq_true s).2 h, if_true]

/-- Outside Running a run has ended where it stands. -/
theorem runWhile_of_not_running {s : State} (h : s.mode ≠ .running) (fuel : Nat) : runWhile fuel s = (true, s) := by
  have hs : s.executes = false := by simpa [State.executes] using h
  cases fuel <;> simp [runWhile, hs]

/-- The state the host's fetch interface builds runs exactly the table word it was given. -/
theorem State.withFetchWord_nextInstr {s : State} (hm : s.mem.wf = true) (nbits w : Nat) :
    (s.withFetchWord nbits w).nextInstr = decodeBytes (tableBytes nbits w) := by
  have h01 : s.pc ≠ s.pc + 1#8 := by bv_omega
  have h02 : s.pc ≠ s.pc + 2#8 := by bv_omega
  have h12 : s.pc + 1#8 ≠ s.pc + 2#8 := by bv_omega
  have e2 : s.pc + 1#8 + 1#8 = s.pc + 2#8 := by bv_omega
  have w0 : (s.memWrite s.pc (BitVec.ofNat 8 (w % 2 ^ nbits))).mem.wf = true := Memory.write_wf hm _ _
  simp only [State.withFetchWord, tableBytes, State.writeBytes, e2, State.nextInstr, decodeBytes, State.setMode_pc,
    State.memWrite_pc, State.setMode_memRead, List.getD_cons_zero, List.getD_cons_succ]
  rw [State.memRead_memWrite_self (Memory.write_wf w0 _ _), State.memRead_memWrite_of_ne _ _ h12,
    State.memRead_memWrite_self w0, State.memRead_memWrite_of_ne _ _ h02, State.memRead_memWrite_of_ne _ _ h01,
    State.memRead_memWrite_self hm]

end Sys2Proof.Machine
end

