-- ==== Sys2Proof/Tests/Slice0.lean ====
section
/-! SUPPORT. Checks of the model against values from outside it: the vectors of spec/95_test_vectors.md (named in each
comment), words written out bit by bit from R47, ill-formed terms, and for every statement with hypotheses a state that
meets them. -/

namespace Sys2Proof.Tests

open Sys2Proof Sys2Proof.Machine

/-! ### The check on syntax -/

/-- One ill-formed term for every register operand of every instruction, at the boundary 8 or the top 255. -/
theorem test_ill_formed_refused :
    [Instr.ldi 8#8 0#8, .prn 8#8, .mul 8#8 0#8, .mul 7#8 8#8, .push 8#8, .pop 8#8, .call 8#8, .add 255#8 0#8,
      .add 0#8 255#8, .cmp 8#8 7#8, .cmp 7#8 8#8, .jump 8#8, .jeq 200#8, .jne 8#8].all (fun i => !i.wellFormed) = true := by
  decide

/-- Register 7 is the last register, and LDI's immediate is never checked. -/
theorem test_well_formed_accepted :
    [Instr.hlt, .ldi 7#8 255#8, .prn 7#8, .mul 7#8 7#8, .push 7#8, .pop 7#8, .call 7#8, .ret, .add 7#8 7#8, .cmp 7#8 7#8,
      .jump 7#8, .jeq 7#8, .jne 7#8].all Instr.wellFormed = true := by
  decide

/-! ### Decoding: words written out from R47 -/

theorem test_decode_hlt : decode 0b00000001#8 0xFF#8 0xFF#8 = .ok .hlt := by decide
theorem test_decode_ldi : decode 0b10000010#8 0b00000011#8 0b11111111#8 = .ok (.ldi 3#8 255#8) := by decide
theorem test_decode_prn : decode 0b01000111#8 0b00000001#8 0xFF#8 = .ok (.prn 1#8) := by decide
theorem test_decode_mul : decode 0b10100010#8 0b00000010#8 0b00000101#8 = .ok (.mul 2#8 5#8) := by decide
theorem test_decode_push : decode 0b01000101#8 0b00000110#8 0xFF#8 = .ok (.push 6#8) := by decide
theorem test_decode_pop : decode 0b01000110#8 0b00000111#8 0xFF#8 = .ok (.pop 7#8) := by decide
theorem test_decode_call : decode 0b01010000#8 0b00000010#8 0xFF#8 = .ok (.call 2#8) := by decide
theorem test_decode_ret : decode 0b00010001#8 0xFF#8 0xFF#8 = .ok .ret := by decide
theorem test_decode_add : decode 0b10100000#8 0b00000000#8 0b00000001#8 = .ok (.add 0#8 1#8) := by decide
theorem test_decode_cmp : decode 0b10100111#8 0b00000100#8 0b00000011#8 = .ok (.cmp 4#8 3#8) := by decide
theorem test_decode_jump : decode 0b01010100#8 0b00000011#8 0xFF#8 = .ok (.jump 3#8) := by decide
theorem test_decode_jeq : decode 0b01010101#8 0b00000010#8 0xFF#8 = .ok (.jeq 2#8) := by decide
theorem test_decode_jne : decode 0b01010110#8 0b00000001#8 0xFF#8 = .ok (.jne 1#8) := by decide

/-- FD-6 to FD-10 and X-1 to X-6: bytes outside the map. -/
theorem test_decode_illegal :
    [0x00#8, 0xFF#8, 0xC0#8, 0x02#8, 0xB0#8, 0xA1#8, 0xA8#8, 0xAA#8, 0xAB#8, 0xAC#8, 0xAD#8].all
      (fun ir => (decode ir 0#8 0#8).toOption == none) = true := by
  decide

/-- R49: exactly 243 of the 256 byte values are illegal. -/
theorem test_illegal_count :
    ((List.range 256).filter (fun n => lookupOpcode (BitVec.ofNat 8 n) == none)).length = 243 := by
  decide +kernel

/-- The table's numbering: the opcode byte in bits 7..0, operands above; bits above `nbits` are zero. -/
theorem test_table_word : decodeTableWord 24 0x080082 = some (.ldi 0#8 8#8) ∧ decodeTableWord 8 0x080082 = some (.ldi 0#8 0#8) := by
  decide

/-! ### A small running state -/

/-- Running at `pc` with the registers `x` and memory `cells`. -/
def running (pc : Byte) (x : Regs) (cells : Memory) (f : Flags := ⟨false, false, false⟩) : State :=
  { State.reset with pc := pc, regs := x, mem := cells, mode := .running, flags := f }

/-- The reset registers with `R0`, `R1`, `R2` and `R7` chosen. -/
def regs (r0 r1 r2 r7 : Byte) : Regs := ⟨r0, r1, r2, 0#8, 0#8, 0#8, 0#8, r7⟩

/-! ### Fetch, decode, faults (section 2.1 of the vectors) -/

/-- FD-1. -/
theorem test_ldi_step :
    let t := (running 0#8 (regs 0#8 0#8 0#8 0xF4#8) [(0, 0x82#8), (1, 3#8), (2, 7#8)]).afterStep
    t.regs.r3 = 7#8 ∧ t.pc = 3#8 ∧ t.mode = .running := by
  decide

/-- FD-4: the immediate wraps to cell 0x00. -/
theorem test_fetch_wraps :
    let t := (running 0xFE#8 (regs 0#8 0#8 0#8 0xF4#8) [(0, 7#8), (0xFE, 0x82#8)]).afterStep
    t.regs.r0 = 7#8 ∧ t.pc = 1#8 := by
  decide

/-- FD-5. -/
theorem test_hlt_at_top :
    let t := (running 0xFF#8 (regs 0#8 0#8 0#8 0xF4#8) [(0xFF, 1#8)]).afterStep
    t.pc = 0#8 ∧ t.mode = .halted := by
  decide

/-- FD-6. -/
theorem test_unknown_opcode :
    let t := (running 3#8 (regs 1#8 0#8 0#8 0xF4#8) []).afterStep
    t.mode = .faulted ∧ t.fault = ⟨.unknownOpcode, 3#8, 0#8, 0#8⟩ ∧ t.pc = 3#8 ∧ t.regs.r0 = 1#8 := by
  decide

/-- FD-11. -/
theorem test_invalid_register :
    let t := (running 0#8 (regs 1#8 0#8 0#8 0xF4#8) [(0, 0x47#8), (1, 8#8)]).afterStep
    t.mode = .faulted ∧ t.fault = ⟨.invalidRegister, 0#8, 0x47#8, 8#8⟩ ∧ t.pc = 0#8 ∧ t.output = [] := by
  decide

/-- FD-13: operand_a is checked first. -/
theorem test_first_operand_recorded :
    (running 0#8 (regs 0#8 0#8 0#8 0xF4#8) [(0, 0xA0#8), (1, 8#8), (2, 9#8)]).afterStep.fault.operand = 8#8 := by
  decide

/-- FD-14: a JEQ that would not be taken is checked all the same. -/
theorem test_jeq_checked_when_not_taken :
    (running 0#8 (regs 0#8 0#8 0#8 0xF4#8) [(0, 0x55#8), (1, 0xC8#8)]).afterStep.fault =
      ⟨.invalidRegister, 0#8, 0x55#8, 0xC8#8⟩ := by
  decide

/-- FD-15: RET ignores the bytes after it. -/
theorem test_ret_ignores_operands :
    let t := (running 0#8 (regs 0#8 0#8 0#8 0xF3#8) [(0, 0x11#8), (1, 0xFF#8), (2, 0xFF#8), (0xF3, 0x20#8)]).afterStep
    t.pc = 0x20#8 ∧ t.regs.r7 = 0xF4#8 ∧ t.mode = .running := by
  decide

/-! ### The instructions -/

/-- What `exec` answers, as a state. -/
def result (i : Instr) (s : State) : State :=
  match exec i s with
  | .next t => t
  | .fault _ => s
  | .refused _ => s

/-- A-A1 and A-A5. -/
theorem test_add_wraps :
    let t := result (.add 0#8 1#8) (running 0#8 (regs 200#8 100#8 0#8 0xF4#8) [] ⟨true, false, false⟩)
    t.regs.r0 = 44#8 ∧ t.regs.r1 = 100#8 ∧ t.flags = ⟨true, false, false⟩ := by
  decide

/-- A-A3: a source that is also the destination. -/
theorem test_add_doubles :
    (result (.add 2#8 2#8) (running 0#8 (regs 0#8 0#8 128#8 0xF4#8) [])).regs.r2 = 0#8 := by
  decide

/-- A-M1 (source §8). -/
theorem test_mul_wraps :
    (result (.mul 0#8 1#8) (running 0#8 (regs 200#8 2#8 0#8 0xF4#8) [])).regs.r0 = 144#8 := by
  decide

/-- A-M2. -/
theorem test_mul_low_byte :
    (result (.mul 0#8 1#8) (running 0#8 (regs 255#8 255#8 0#8 0xF4#8) [])).regs.r0 = 1#8 := by
  decide

/-- A-C5: unsigned, 128 against 127. -/
theorem test_cmp_unsigned_greater :
    (result (.cmp 0#8 1#8) (running 0#8 (regs 0x80#8 0x7F#8 0#8 0xF4#8) [])).flags = ⟨false, false, true⟩ := by
  decide

/-- A-C7: earlier flags are replaced. -/
theorem test_cmp_replaces_flags :
    (result (.cmp 0#8 1#8) (running 0#8 (regs 9#8 9#8 0#8 0xF4#8) [] ⟨false, true, false⟩)).flags =
      ⟨true, false, false⟩ := by
  decide

/-- T-1. -/
theorem test_hlt :
    let t := result .hlt (running 0x20#8 (regs 0#8 0#8 0#8 0xF4#8) [])
    t.pc = 0x21#8 ∧ t.mode = .halted := by
  decide

/-- T-3: LDI moves the stack pointer. -/
theorem test_ldi_sp :
    (result (.ldi 7#8 0x10#8) (running 0#8 (regs 0#8 0#8 0#8 0xF4#8) [])).regs.r7 = 0x10#8 := by
  decide

/-- T-4. -/
theorem test_prn_sp :
    (result (.prn 7#8) (running 0#8 (regs 0#8 0#8 0#8 0xF4#8) [])).output = [244#8] := by
  decide

/-- S-2: the stack pointer wraps below 0x00. -/
theorem test_push_wraps :
    let t := result (.push 0#8) (running 0#8 (regs 0xAB#8 0#8 0#8 0#8) [])
    t.regs.r7 = 0xFF#8 ∧ t.mem = [(0xFF, 0xAB#8)] := by
  decide

/-- S-3: PUSH R7 stores the decremented stack pointer. -/
theorem test_push_sp :
    let t := result (.push 7#8) (running 0#8 (regs 0#8 0#8 0#8 0xF4#8) [])
    t.regs.r7 = 0xF3#8 ∧ t.memRead 0xF3#8 = 0xF3#8 := by
  decide

/-- S-5. -/
theorem test_pop_wraps :
    let t := result (.pop 2#8) (running 0#8 (regs 0#8 0#8 0#8 0xFF#8) [(0xFF, 0x11#8)])
    t.regs.r2 = 0x11#8 ∧ t.regs.r7 = 0#8 ∧ t.memRead 0xFF#8 = 0x11#8 := by
  decide

/-- S-6: POP R7. -/
theorem test_pop_sp :
    (result (.pop 7#8) (running 0#8 (regs 0#8 0#8 0#8 0xF3#8) [(0xF3, 0x20#8)])).regs.r7 = 0x21#8 := by
  decide

/-- C-2: CALL at 0xFF pushes 0x01. -/
theorem test_call_at_top :
    let t := result (.call 0#8) (running 0xFF#8 (regs 0x40#8 0#8 0#8 0xF4#8) [])
    t.memRead 0xF3#8 = 1#8 ∧ t.regs.r7 = 0xF3#8 ∧ t.pc = 0x40#8 := by
  decide

/-- C-4: CALL R7. -/
theorem test_call_sp :
    let t := result (.call 7#8) (running 0x20#8 (regs 0#8 0#8 0#8 0xF4#8) [])
    t.memRead 0xF3#8 = 0x22#8 ∧ t.regs.r7 = 0xF3#8 ∧ t.pc = 0xF3#8 := by
  decide

/-- C-7. -/
theorem test_ret_wraps :
    let t := result .ret (running 0#8 (regs 0#8 0#8 0#8 0xFF#8) [(0xFF, 0x33#8)])
    t.pc = 0x33#8 ∧ t.regs.r7 = 0#8 := by
  decide

/-- B-1. -/
theorem test_jump : (result (.jump 2#8) (running 0#8 (regs 0#8 0#8 0x0C#8 0xF4#8) [])).pc = 0x0C#8 := by decide

/-- B-3 and B-4. -/
theorem test_jeq :
    (result (.jeq 2#8) (running 0x0E#8 (regs 0#8 0#8 0x13#8 0xF4#8) [] ⟨true, false, false⟩)).pc = 0x13#8 ∧
      (result (.jeq 2#8) (running 0x0E#8 (regs 0#8 0#8 0x13#8 0xF4#8) [] ⟨false, true, false⟩)).pc = 0x10#8 := by
  decide

/-- B-6 and B-7. -/
theorem test_jne :
    (result (.jne 2#8) (running 0x0C#8 (regs 0#8 0#8 0x13#8 0xF4#8) [] ⟨false, false, true⟩)).pc = 0x13#8 ∧
      (result (.jne 2#8) (running 0x0C#8 (regs 0#8 0#8 0x13#8 0xF4#8) [] ⟨true, false, false⟩)).pc = 0x0E#8 := by
  decide

/-! ### Memory form and host transactions -/

/-- Writing the reset contents of a cell removes it from the list. -/
theorem test_memory_canonical :
    Memory.write (Memory.write [] 5#8 1#8) 2#8 9#8 = [(2, 9#8), (5, 1#8)] ∧
      Memory.write (Memory.write [] 5#8 1#8) 5#8 0#8 = [] := by
  decide

/-- R-2. -/
theorem test_load :
    let r := transact (.load [0x82#8, 0x00#8, 0x08#8]) State.reset
    r.1 = .accepted ∧ r.2.mem = [(0, 0x82#8), (2, 8#8)] ∧ r.2.pc = 0#8 ∧ r.2.mode = .halted := by
  decide

/-- R-3: 257 bytes. -/
theorem test_load_too_long : (transact (.load (List.replicate 257 1#8)) State.reset).1 = .refused := by
  decide +kernel

/-- R-4 and R-5. -/
theorem test_refusals :
    (transact (.load [1#8]) { State.reset with mode := .running }).1 = .refused ∧
      (transact .start { State.reset with mode := .faulted }).1 = .refused := by
  decide

/-- R-1. -/
theorem test_reset_leaves_faulted :
    (transact .reset { State.reset with mode := .faulted, fault := ⟨.unknownOpcode, 3#8, 0#8, 0#8⟩ }).2.fault =
      FaultStatus.clear := by
  decide

/-- The numbers of R21's table. -/
theorem test_fault_code_bits :
    [FaultCode.none, .unknownOpcode, .unsupportedALUOp, .invalidRegister].map FaultCode.bits = [0#2, 1#2, 2#2, 3#2] := by
  decide

/-- The host's fetch interface: from reset, the very next step runs the word it placed (LDI R0, 8). -/
theorem test_fetch_word : (State.reset.withFetchWord 24 0x080082).afterStep.regs.r0 = 8#8 := by decide

/-! ### Witnesses: states that meet the hypotheses of the statements -/


theorem witness_MemoryReadsLatestWrite : Memory.wf [(0xF3, 1#8)] = true ∧ (0xF4#8 : Byte) ≠ 0xF3#8 := by decide

theorem witness_CanonicalMemoriesAreEqualWhenTheyReadAlike :
    ∃ m n : Memory, m.wf = true ∧ n.wf = true ∧ ∀ c, m.read c = n.read c :=
  ⟨[(5, 1#8)], [(5, 1#8)], rfl, rfl, fun _ => rfl⟩

theorem witness_DecodeAndEncodeAgree : decode 0xA7#8 0xFF#8 0x00#8 = .ok (.cmp 0xFF#8 0x00#8) := by decide

/-- The InvalidRegister clauses of the thirteen instructions meet at 7 (the last register) and 8 (the first byte that names
none), and reach to 255. -/
theorem witness_register_clauses : Reg.byte .R7 = 7#8 ∧ 8 ≤ (8#8 : Byte).toNat ∧ 8 ≤ (255#8 : Byte).toNat := by decide

theorem witness_PushStoresBelowTheStackPointer : State.reset.mem.wf = true ∧ (Reg.R7 = .R7) ∧ (Reg.R0 ≠ .R7) := by decide

theorem witness_PopLoadsFromTheStackPointer : Reg.R6 ≠ .R7 ∧ Reg.R7 = .R7 := by decide

theorem witness_CallPushesTheReturnAddress : (running 0xFE#8 (regs 0x40#8 0#8 0#8 0xF4#8) [(0xFE, 0x50#8)]).mem.wf = true := by
  decide

theorem witness_JeqBranchesOnEqual_and_JneBranchesOnNotEqual :
    (running 0#8 (regs 0#8 0#8 0#8 0#8) [] ⟨true, false, false⟩).flags.E = true ∧
      (running 0#8 (regs 0#8 0#8 0#8 0#8) [] ⟨false, true, false⟩).flags.E = false := by
  decide

/-- LDI R0, 8 at 0xFE, its immediate wrapped to cell 0. -/
def atLdi : State := running 0xFE#8 (regs 0#8 0#8 0#8 0xF4#8) [(0, 8#8), (0xFE, 0x82#8)]
/-- HLT at 5. -/
def atHlt : State := running 5#8 (regs 0#8 0#8 0#8 0xF4#8) [(5, 1#8)]
/-- PRN R7, the last register, at 0. -/
def atPrn7 : State := running 0#8 (regs 0#8 0#8 0#8 0xF4#8) [(0, 0x47#8), (1, 7#8)]
/-- PRN with operand 8, the first byte that names no register, at 0. -/
def atPrn8 : State := running 0#8 (regs 0#8 0#8 0#8 0xF4#8) [(0, 0x47#8), (1, 8#8)]
/-- CMP R0, R1 at 0. -/
def atCmp : State := running 0#8 (regs 5#8 5#8 0#8 0xF4#8) [(0, 0xA7#8), (2, 1#8)]
/-- The illegal byte 0x00 at 3. -/
def atZero : State := running 3#8 (regs 0#8 0#8 0#8 0xF4#8) []

theorem witness_StepRunsTheDecodedInstruction : atLdi.mode = .running ∧ atLdi.nextInstr = .ok (.ldi 0#8 8#8) := by decide

theorem witness_StepHasNoEffectUnlessRunning :
    State.reset.mode ≠ .running ∧ ({ State.reset with mode := .faulted } : State).mode ≠ .running := by
  decide

theorem witness_UnknownOpcodeIsFatal :
    atZero.mode = .running ∧
      atZero.memRead atZero.pc ∉ [0x01#8, 0x82#8, 0x47#8, 0xA2#8, 0x45#8, 0x46#8, 0x50#8, 0x11#8, 0xA0#8, 0xA7#8, 0x54#8,
        0x55#8, 0x56#8] := by
  decide

theorem witness_InvalidRegisterIsFatal :
    atPrn8.mode = .running ∧ atPrn8.nextInstr = .ok (.prn 8#8) ∧ (Instr.prn 8#8).badOperand = some 8#8 ∧
      atPrn7.mode = .running ∧ atPrn7.nextInstr = .ok (.prn 7#8) ∧ (Instr.prn 7#8).wellFormed = true := by
  decide

theorem witness_OnlyHltAndFaultsStopARun :
    (atHlt.mode = .running ∧ step atHlt = .next atHlt.afterStep) ∧
      (atZero.mode = .running ∧ step atZero = .next atZero.afterStep) ∧
      (atPrn8.mode = .running ∧ step atPrn8 = .next atPrn8.afterStep) :=
  ⟨⟨rfl, rfl⟩, ⟨rfl, rfl⟩, ⟨rfl, rfl⟩⟩

theorem witness_FaultsArePrecise :
    atPrn8.mode = .running ∧ step atPrn8 = .next atPrn8.afterStep ∧ atPrn8.afterStep.mode = .faulted :=
  ⟨rfl, rfl, rfl⟩

theorem witness_UnsupportedAluOpIsNeverRaised :
    step atPrn8 = .next atPrn8.afterStep ∧ atPrn8.fault.code ≠ .unsupportedALUOp :=
  ⟨rfl, by decide⟩

theorem witness_AutoAdvanceIsExact :
    atLdi.mode = .running ∧ atLdi.nextInstr = .ok (.ldi 0#8 8#8) ∧ step atLdi = .next atLdi.afterStep ∧
      atLdi.afterStep.mode ≠ .faulted ∧ fieldC (atLdi.memRead atLdi.pc) = false :=
  ⟨rfl, rfl, rfl, by decide, rfl⟩

theorem witness_OnlyCmpWritesTheFlags :
    (atCmp.mode = .running ∧ step atCmp = .next atCmp.afterStep ∧ atCmp.memRead atCmp.pc = 0xA7#8 ∧
      atCmp.afterStep.mode ≠ .faulted) ∧
      (atLdi.mode = .running ∧ step atLdi = .next atLdi.afterStep ∧ atLdi.memRead atLdi.pc ≠ 0xA7#8) :=
  ⟨⟨rfl, rfl, rfl, by decide⟩, ⟨rfl, rfl, by decide⟩⟩

theorem witness_OnlyPushAndCallWriteMemory :
    step atLdi = .next atLdi.afterStep ∧ atLdi.memRead atLdi.pc ≠ 0x45#8 ∧ atLdi.memRead atLdi.pc ≠ 0x50#8 :=
  ⟨rfl, by decide, by decide⟩

/-- Both clauses: PRN of the last register; a PRN whose operand names none, another opcode, and a state that is not
running. -/
theorem witness_OnlyPrnEmits :
    (step atPrn7 = .next atPrn7.afterStep ∧ atPrn7.mode = .running ∧ atPrn7.memRead atPrn7.pc = 0x47#8 ∧
      atPrn7.memRead (atPrn7.pc + 1#8) = Reg.byte .R7) ∧
      (step atPrn8 = .next atPrn8.afterStep ∧ 8 ≤ (atPrn8.memRead (atPrn8.pc + 1#8)).toNat) ∧
      (step atLdi = .next atLdi.afterStep ∧ atLdi.memRead atLdi.pc ≠ 0x47#8) ∧
      (step State.reset = .next State.reset.afterStep ∧ State.reset.mode ≠ .running) :=
  ⟨⟨rfl, rfl, rfl, rfl⟩, ⟨rfl, by decide⟩, ⟨rfl, by decide⟩, ⟨rfl, by decide⟩⟩

theorem witness_RegistersWrittenAreThoseOfTheTable_and_NoInstructionReadsLOrG :
    ∃ t, exec (.jeq 2#8) atLdi = .next t := ⟨_, rfl⟩

theorem witness_NoStepReadsOldLatches :
    SameArch atLdi { atLdi with latches := ⟨1#8, 2#8, 3#8⟩ } ∧ step atLdi = .next atLdi.afterStep :=
  ⟨SameArch.refl _, rfl⟩

/-- PUSH R7 stores at the next `pc`, PUSH R0 at the next `pc + 2`, and CALL R0 at the next `pc + 1`: one state for each
latch. -/
theorem witness_StoresAreVisibleToTheNextFetch :
    (∃ t, (running 0xF3#8 (regs 1#8 0#8 0#8 0xF6#8) []).mem.wf = true ∧
      exec (.push (Reg.byte .R7)) (running 0xF3#8 (regs 1#8 0#8 0#8 0xF6#8) []) = .next t ∧
      t.pc = (running 0xF3#8 (regs 1#8 0#8 0#8 0xF6#8) []).decSp.sp) ∧
    (∃ t, exec (.push (Reg.byte .R0)) (running 0xF0#8 (regs 1#8 0#8 0#8 0xF5#8) []) = .next t ∧
      t.pc + 2#8 = (running 0xF0#8 (regs 1#8 0#8 0#8 0xF5#8) []).decSp.sp) ∧
    (∃ t, (running 0#8 (regs 0xF2#8 0#8 0#8 0xF4#8) []).mem.wf = true ∧
      exec (.call (Reg.byte .R0)) (running 0#8 (regs 0xF2#8 0#8 0#8 0xF4#8) []) = .next t ∧
      t.pc + 1#8 = (running 0#8 (regs 0xF2#8 0#8 0#8 0xF4#8) []).decSp.sp) :=
  ⟨⟨_, rfl, rfl, rfl⟩, ⟨_, rfl, rfl⟩, ⟨_, rfl, rfl, rfl⟩⟩

theorem witness_PushThenPopRestoresTheStackPointer : State.reset.mem.wf = true ∧ Reg.R1 ≠ .R7 := by decide

/-- The state in which the RET runs is the one the CALL left. -/
theorem witness_CallThenRetReturnsAfterTheCall :
    ∃ t, atHlt.mem.wf = true ∧ exec (.call (Reg.byte .R0)) atHlt = .next t ∧ t.sp = t.sp ∧
      t.memRead t.sp = t.memRead t.sp :=
  ⟨_, rfl, rfl, rfl, rfl⟩

theorem witness_NestedCallsTakeOneByteEach :
    State.reset.sp = 0xF4#8 ∧ (List.replicate 244 Reg.R0).length = 244 ∧ (List.replicate 245 Reg.R0).length = 245 :=
  ⟨rfl, List.length_replicate, List.length_replicate⟩

/-- B-2: JUMP R0 at 0x40 with `x[0]` = 0x40. -/
theorem witness_JumpToItselfNeverEnds :
    let s := running 0x40#8 (regs 0x40#8 0#8 0#8 0xF4#8) [(0x40, 0x54#8)]
    s.mode = .running ∧ s.memRead s.pc = 0x54#8 ∧ s.memRead (s.pc + 1#8) = Reg.byte .R0 ∧ s.reg .R0 = s.pc := by
  decide

theorem witness_StartAfterHltResumes : atHlt.mode = .running ∧ ∃ t, exec .hlt atHlt = .next t := ⟨rfl, _, rfl⟩

theorem witness_LoadWritesTheProgramFromAddressZero :
    State.reset.mem.wf = true ∧ State.reset.mode = .halted ∧ (List.replicate 256 (1#8 : Byte)).length ≤ 256 ∧
      256 < (List.replicate 257 (1#8 : Byte)).length ∧ atHlt.mem.wf = true ∧ atHlt.mode ≠ .halted := by
  refine ⟨rfl, rfl, ?_, ?_, rfl, by decide⟩ <;> rw [List.length_replicate]
  decide

theorem witness_StartSetsRunningAndNothingElse : State.reset.mode = .halted ∧ atHlt.mode ≠ .halted := by decide

/-- A run of HLT, placed at the reset `pc`, ends; a run of no steps from the same state does not. -/
theorem witness_RunEndsExactlyOutsideRunning :
    let s : State := { State.reset with mem := [(0, 1#8)] }
    s.mode = .halted ∧ (transact (.run 1) s).1 = .ran true ∧ (transact (.run 0) s).1 = .ran false ∧
      atHlt.mode ≠ .halted := by
  decide

theorem witness_OnlyResetLeavesFaulted : atZero.afterStep.mode = .faulted ∧ Request.step ≠ .reset := by decide

theorem witness_StepKeepsTheInvariant_and_EveryTransactionKeepsTheInvariant :
    atLdi.Inv ∧ step atLdi = .next atLdi.afterStep :=
  ⟨⟨rfl, rfl, fun _ => rfl, fun h => by cases h⟩, rfl⟩

end Sys2Proof.Tests
end

section
/-! The fields of the opcode byte, read as the shifts of the source read them (R63). -/

namespace Sys2Proof

/-- Nothing but AA stands above bit 5 of a byte, so the shift alone isolates it. -/
theorem fieldAA_eq_shift (ir : Byte) : fieldAA ir = (ir >>> 6).toNat := by
  have shift_lt : ir.toNat >>> 6 < 2 ^ 2 := by
    have := ir.isLt
    omega
  rw [fieldAA, BitVec.extractLsb'_toNat, BitVec.toNat_ushiftRight, Nat.mod_eq_of_lt shift_lt]

/-- A bit of a byte, read by shifting it to position 0 and masking the rest. -/
theorem getLsbD_iff_shift_and_one (ir : Byte) (k : Nat) :
    ir.getLsbD k = true ↔ (ir >>> k) &&& 1#8 = 1#8 := by
  have mask : (ir >>> k) &&& 1#8 = (BitVec.ofBool (ir.getLsbD k)).setWidth 8 := by
    rw [BitVec.and_one_eq_setWidth_ofBool_getLsbD, BitVec.getLsbD_ushiftRight, Nat.add_zero]
  rw [mask]
  cases ir.getLsbD k <;> decide

/-- Settles O53: AA by its shift; B and C are the bits at positions 5 and 4. -/
theorem opcodeFieldsAreTheBitsOfTheByte : Obligations.OpcodeFieldsAreTheBitsOfTheByte := by
  intro ir
  exact ⟨fieldAA_eq_shift ir, getLsbD_iff_shift_and_one ir 5, getLsbD_iff_shift_and_one ir 4⟩

end Sys2Proof
end

section
/-! HLT (R75): its decoding and its next state. -/

namespace Sys2Proof.Machine

open Sys2Proof

/-- The opcode byte alone selects the instruction's row; the fetched bytes only fill its operands (R43, R44). -/
theorem decode_opcode (m : Mnemonic) (opA opB : Byte) : decode m.opcode opA opB = .ok (buildInstr m opA opB) := by
  rw [decode, lookupOpcode_opcode]

/-- Settles O12: HLT takes no operand byte, and its next state is the advanced one in mode Halted. -/
theorem hltHaltsAfterItsOwnByte : Obligations.HltHaltsAfterItsOwnByte := by
  constructor
  · intro a b
    exact decode_opcode .hlt a b
  · intro s
    have pc_wraps : (s.pc + 1#8).toNat = (s.pc.toNat + 1) % 256 := BitVec.toNat_add s.pc 1#8
    refine ⟨_, exec_hlt s, State.setMode_mode _ .halted, pc_wraps, ?regs, by simp, ?mem, by simp, by simp⟩
    case regs => intro r _; simp
    case mem => intro c; simp

end Sys2Proof.Machine
end

section
/-! RET (R84): its decoding and its next state. -/

namespace Sys2Proof.Machine

open Sys2Proof

/-- RET writes no register but the stack pointer. -/
theorem returnFromCall_reg (s : State) (q : Reg) :
    (returnFromCall s).reg q = if q = .R7 then s.sp + 1#8 else s.reg q := by
  have incremented_last : returnFromCall s = (s.setPc (s.memRead s.sp)).incSp := rfl
  rw [incremented_last, State.incSp_reg, State.setPc_sp, State.setPc_reg]

/-- RET leaves everything but `pc` and the stack pointer as it was. -/
theorem returnFromCall_frame (s : State) : FrameRegs [.R7] s (returnFromCall s) := by
  refine ⟨?regs, returnFromCall_flags s, ?mem, ⟨returnFromCall_mode s, returnFromCall_fault s⟩,
    returnFromCall_output s⟩
  case regs =>
    intro q hq
    have hne : q ≠ .R7 := fun h => hq (List.mem_singleton.2 h)
    rw [returnFromCall_reg, if_neg hne]
  case mem =>
    intro c
    rw [State.memRead, returnFromCall_mem, State.memRead]

/-- Settles O18: RET takes no operand byte, `pc` takes the byte at the stack pointer before the increment, and the
rest is the frame of its effect. -/
theorem retJumpsToThePoppedByte : Obligations.RetJumpsToThePoppedByte := by
  constructor
  · intro a b
    exact decode_opcode .ret a b
  · intro s
    have sp_wraps : (returnFromCall s).sp.toNat = (s.sp.toNat + 1) % 256 := by
      rw [State.sp_eq, returnFromCall_reg, if_pos rfl]
      exact BitVec.toNat_add s.sp 1#8
    exact ⟨returnFromCall s, exec_ret s, returnFromCall_pc s, sp_wraps, returnFromCall_frame s⟩

end Sys2Proof.Machine
end

section
/-! The decoder and the encoder: the opcode byte's fields by mnemonic (R48), the thirteen accepted bytes (R47, R49), and
decode and encode as inverses (R38, R44). -/

namespace Sys2Proof

open Sys2Proof.Machine (decode_opcode)

/-! ### The fields of an instruction's opcode byte (R39 to R42) -/

theorem mnemonic_length (i : Instr) : i.mnemonic.length = 1 + i.operands.length := by
  cases i <;> simp [Instr.mnemonic, Instr.operands]

theorem fieldAA_opcode (i : Instr) : fieldAA i.mnemonic.opcode = i.operands.length :=
  Nat.add_left_cancel (mnemonic_length i)

theorem operands_length_le (i : Instr) : i.operands.length ≤ 2 := by cases i <;> simp [Instr.operands]

theorem fieldB_opcode (m : Mnemonic) : fieldB m.opcode = true ↔ m ∈ [.add, .mul, .cmp] := by
  cases m <;> decide

theorem fieldC_opcode (m : Mnemonic) : fieldC m.opcode = true ↔ m ∈ [.call, .ret, .jump, .jeq, .jne] := by
  cases m <;> decide

/-! ### The accepted opcode bytes -/

theorem opcode_injective {m m' : Mnemonic} (h : m.opcode = m'.opcode) : m = m' := by
  have hlookup : lookupOpcode m.opcode = lookupOpcode m'.opcode := congrArg lookupOpcode h
  simpa using hlookup

theorem opcode_mem_opcodeMap (m : Mnemonic) : m.opcode ∈ opcodeMap.map OpcodeRow.opcode := by
  cases m <;> decide

theorem lookupOpcode_eq_none_iff (ir : Byte) :
    lookupOpcode ir = none ↔ ir ∉ opcodeMap.map OpcodeRow.opcode := by
  simp only [lookupOpcode, Option.map_eq_none_iff, List.find?_eq_none, List.mem_map, not_exists, not_and, beq_iff_eq]

/-! ### Decoding an encoding, and encoding what was decoded -/

/-- The operand bytes the decoder reads, in an encoding with anything after it, rebuild the instruction. -/
theorem buildInstr_operands (i : Instr) (rest : List Byte) :
    buildInstr i.mnemonic ((i.operands ++ rest).getD 0 0#8) ((i.operands ++ rest).getD 1 0#8) = i := by
  cases i <;> rfl

theorem decodeBytes_encode (i : Instr) (rest : List Byte) : decodeBytes (encode i ++ rest) = .ok i := by
  calc decodeBytes (encode i ++ rest)
      = decode i.mnemonic.opcode ((i.operands ++ rest).getD 0 0#8) ((i.operands ++ rest).getD 1 0#8) := rfl
    _ = .ok i := by rw [decode_opcode, buildInstr_operands]

theorem encode_length (i : Instr) : (encode i).length = 1 + fieldAA i.mnemonic.opcode := by
  rw [fieldAA_opcode, encode, List.length_cons, Nat.add_comm]

/-- An instruction built from two operand bytes has the first of them as its operands, as many as it uses. -/
theorem encode_buildInstr (m : Mnemonic) (opA opB : Byte) :
    encode (buildInstr m opA opB) = [m.opcode, opA, opB].take (encode (buildInstr m opA opB)).length := by
  cases m <;> rfl

/-- What decodes was built by the row of its opcode byte. -/
theorem eq_buildInstr_of_decode {ir opA opB : Byte} {i : Instr} (h : decode ir opA opB = .ok i) :
    ∃ m : Mnemonic, ir = m.opcode ∧ i = buildInstr m opA opB := by
  obtain ⟨m, hir, hok⟩ | ⟨_, herr⟩ := decode_cases ir opA opB
  · rw [hok] at h
    cases h
    exact ⟨m, hir, rfl⟩
  · rw [herr] at h
    cases h

/-! ### The statements -/

/-- Settles O7: an encoding holds every operand the decoder reads, and what decodes was built from the bytes its encoding
lists. -/
theorem decodeAndEncodeAgree : Obligations.DecodeAndEncodeAgree := by
  refine ⟨decodeBytes_encode, ?_⟩
  intro ir opA opB i h
  obtain ⟨m, rfl, rfl⟩ := eq_buildInstr_of_decode h
  refine ⟨encode_buildInstr m opA opB, ?_⟩
  rw [encode_length, buildInstr_mnemonic]

/-- Settles O6: by whether the opcode map lists the byte. -/
theorem unlistedOpcodesAreRejected : Obligations.UnlistedOpcodesAreRejected := by
  intro ir opA opB
  obtain ⟨m, rfl, hok⟩ | ⟨hnone, herr⟩ := decode_cases ir opA opB
  · exact .inl ⟨opcode_mem_opcodeMap m, _, hok⟩
  · exact .inr ⟨(lookupOpcode_eq_none_iff ir).1 hnone, herr⟩

/-- Settles O5: each word begins with the opcode byte of its row. -/
theorem opcodeMapWordsDecode : Obligations.OpcodeMapWordsDecode :=
  ⟨decode_opcode .hlt _ _, decode_opcode .ldi _ _, decode_opcode .prn _ _, decode_opcode .mul _ _,
    decode_opcode .push _ _, decode_opcode .pop _ _, decode_opcode .call _ _, decode_opcode .ret _ _,
    decode_opcode .add _ _, decode_opcode .cmp _ _, decode_opcode .jump _ _, decode_opcode .jeq _ _,
    decode_opcode .jne _ _⟩

/-- Settles O8: AA by the instruction, B and C by its row of the opcode map. -/
theorem opcodeFieldsAgreeWithTheInstruction : Obligations.OpcodeFieldsAgreeWithTheInstruction := by
  intro i
  exact ⟨fieldAA_opcode i, operands_length_le i, fieldB_opcode i.mnemonic, fieldC_opcode i.mnemonic⟩

end Sys2Proof
end

section
/-! SUPPORT. Every instruction whose register operands name registers, with the state it leaves: one relation that the
frame lemmas below and the invariants read instead of `exec`. -/

namespace Sys2Proof.Machine

open Sys2Proof

/-- `Completes s i t`: every register operand of `i` names a register, and from `s` the instruction leaves `t` (R66,
R67). -/
inductive Completes (s : State) : Instr → State → Prop
  | hlt : Completes s .hlt ((s.setPc (s.pc + 1#8)).setMode .halted)
  | ldi (ra : Reg) (imm : Byte) : Completes s (.ldi ra.byte imm) ((s.setPc (s.pc + 3#8)).setReg ra imm)
  | prn (ra : Reg) : Completes s (.prn ra.byte) ((s.setPc (s.pc + 2#8)).emit (s.reg ra))
  | mul (ra rb : Reg) :
      Completes s (.mul ra.byte rb.byte) ((s.setPc (s.pc + 3#8)).setReg ra (s.reg ra * s.reg rb))
  | push (ra : Reg) : Completes s (.push ra.byte) (pushReg ra (s.setPc (s.pc + 2#8)))
  | pop (ra : Reg) : Completes s (.pop ra.byte) (popReg ra (s.setPc (s.pc + 2#8)))
  | call (ra : Reg) : Completes s (.call ra.byte) (callReg ra s)
  | ret : Completes s .ret (returnFromCall s)
  | add (ra rb : Reg) :
      Completes s (.add ra.byte rb.byte) ((s.setPc (s.pc + 3#8)).setReg ra (s.reg ra + s.reg rb))
  | cmp (ra rb : Reg) :
      Completes s (.cmp ra.byte rb.byte)
        ((s.setPc (s.pc + 3#8)).setFlags (compareFlags (s.reg ra) (s.reg rb)))
  | jump (ra : Reg) : Completes s (.jump ra.byte) (s.setPc (s.reg ra))
  | jeq (ra : Reg) : Completes s (.jeq ra.byte) (branchIf s.flags.E ra s)
  | jne (ra : Reg) : Completes s (.jne ra.byte) (branchIf (!s.flags.E) ra s)

/-- The relation is the model's: what it says an instruction leaves is what `exec` answers. -/
theorem Completes.exec_eq {s t : State} {i : Instr} (h : Completes s i t) : exec i s = .next t := by
  cases h with
  | hlt => exact exec_hlt s
  | ldi ra imm => exact exec_ldi s ra imm
  | prn ra => exact exec_prn s ra
  | mul ra rb => exact exec_mul s ra rb
  | push ra => exact exec_push s ra
  | pop ra => exact exec_pop s ra
  | call ra => exact exec_call s ra
  | ret => exact exec_ret s
  | add ra rb => exact exec_add s ra rb
  | cmp ra rb => exact exec_cmp s ra rb
  | jump ra => exact exec_jump s ra
  | jeq ra => exact exec_jeq s ra
  | jne ra => exact exec_jne s ra

/-! ### The first bad operand -/

theorem badOperand_first {i : Instr} {a : Byte} {rest : List Byte} (hi : i.regOperands = a :: rest)
    (ha : 8 ≤ a.toNat) : i.badOperand = some a := by
  rw [Instr.badOperand, hi, List.find?_cons_of_pos (by simp [(isRegIndex_eq_false_iff a).2 ha])]

theorem badOperand_second {i : Instr} {ra : Reg} {b : Byte} {rest : List Byte}
    (hi : i.regOperands = ra.byte :: b :: rest) (hb : 8 ≤ b.toNat) : i.badOperand = some b := by
  rw [Instr.badOperand, hi, List.find?_cons_of_neg (by simp),
    List.find?_cons_of_pos (by simp [(isRegIndex_eq_false_iff b).2 hb])]

theorem Completes.badOperand {s t : State} {i : Instr} (h : Completes s i t) : i.badOperand = none := by
  cases h <;> simp [Instr.badOperand, Instr.regOperands]

theorem Completes.wellFormed {s t : State} {i : Instr} (h : Completes s i t) : i.wellFormed = true :=
  (wellFormed_iff_badOperand i).2 h.badOperand

/-! ### Everything `exec` can do -/

variable (s : State)

/-- An instruction with one register operand completes when the byte names a register, and else the byte is bad. -/
theorem completes_or_badOperand_of_one (f : Byte → Instr) (hf : ∀ a, (f a).regOperands = [a])
    (hc : ∀ ra : Reg, ∃ t, Completes s (f ra.byte) t) (a : Byte) :
    (∃ t, Completes s (f a) t) ∨ ∃ operand, (f a).badOperand = some operand := by
  obtain ⟨ra, rfl⟩ | ha := reg_byte_or_bad a
  · exact .inl (hc ra)
  · exact .inr ⟨a, badOperand_first (hf a) ha⟩

/-- An instruction with two register operands completes when both bytes name registers, and else has a first bad one. -/
theorem completes_or_badOperand_of_two (f : Byte → Byte → Instr) (hf : ∀ a b, (f a b).regOperands = [a, b])
    (hc : ∀ ra rb : Reg, ∃ t, Completes s (f ra.byte rb.byte) t) (a b : Byte) :
    (∃ t, Completes s (f a b) t) ∨ ∃ operand, (f a b).badOperand = some operand := by
  obtain ⟨ra, rfl⟩ | ha := reg_byte_or_bad a
  · obtain ⟨rb, rfl⟩ | hb := reg_byte_or_bad b
    · exact .inl (hc ra rb)
    · exact .inr ⟨b, badOperand_second (hf ra.byte b) hb⟩
  · exact .inr ⟨a, badOperand_first (hf a b) ha⟩

theorem completes_or_badOperand (i : Instr) :
    (∃ t, Completes s i t) ∨ ∃ operand, i.badOperand = some operand := by
  cases i with
  | hlt => exact .inl ⟨_, .hlt⟩
  | ret => exact .inl ⟨_, .ret⟩
  | ldi a imm => exact completes_or_badOperand_of_one s (.ldi · imm) (fun _ => rfl) (fun ra => ⟨_, .ldi ra imm⟩) a
  | prn a => exact completes_or_badOperand_of_one s .prn (fun _ => rfl) (fun ra => ⟨_, .prn ra⟩) a
  | push a => exact completes_or_badOperand_of_one s .push (fun _ => rfl) (fun ra => ⟨_, .push ra⟩) a
  | pop a => exact completes_or_badOperand_of_one s .pop (fun _ => rfl) (fun ra => ⟨_, .pop ra⟩) a
  | call a => exact completes_or_badOperand_of_one s .call (fun _ => rfl) (fun ra => ⟨_, .call ra⟩) a
  | jump a => exact completes_or_badOperand_of_one s .jump (fun _ => rfl) (fun ra => ⟨_, .jump ra⟩) a
  | jeq a => exact completes_or_badOperand_of_one s .jeq (fun _ => rfl) (fun ra => ⟨_, .jeq ra⟩) a
  | jne a => exact completes_or_badOperand_of_one s .jne (fun _ => rfl) (fun ra => ⟨_, .jne ra⟩) a
  | mul a b => exact completes_or_badOperand_of_two s .mul (fun _ _ => rfl) (fun ra rb => ⟨_, .mul ra rb⟩) a b
  | add a b => exact completes_or_badOperand_of_two s .add (fun _ _ => rfl) (fun ra rb => ⟨_, .add ra rb⟩) a b
  | cmp a b => exact completes_or_badOperand_of_two s .cmp (fun _ _ => rfl) (fun ra rb => ⟨_, .cmp ra rb⟩) a b

theorem completes_of_wellFormed {i : Instr} (h : i.wellFormed = true) : ∃ t, Completes s i t := by
  obtain hc | ⟨operand, hb⟩ := completes_or_badOperand s i
  · exact hc
  · rw [(wellFormed_iff_badOperand i).1 h] at hb
    cases hb

/-- `exec` answers a next state, whatever the instruction. -/
theorem exec_next (i : Instr) : ∃ t, exec i s = .next t := by
  obtain ⟨t, hc⟩ | ⟨operand, hb⟩ := completes_or_badOperand s i
  · exact ⟨t, hc.exec_eq⟩
  · exact ⟨_, exec_of_badOperand s hb⟩

/-- Everything `exec` can do: complete the instruction, or take InvalidRegister with its first bad operand. -/
theorem exec_cases {s t : State} {i : Instr} (h : exec i s = .next t) :
    Completes s i t ∨ ∃ operand, i.badOperand = some operand ∧ t = s.invalidRegister i.mnemonic operand := by
  obtain ⟨u, hc⟩ | ⟨operand, hb⟩ := completes_or_badOperand s i
  · rw [hc.exec_eq] at h
    cases h
    exact .inl hc
  · rw [exec_of_badOperand s hb] at h
    cases h
    exact .inr ⟨operand, hb, rfl⟩

end Sys2Proof.Machine
end

section
/-! SUPPORT. What a completed instruction leaves in each part of the state, by its row of the opcode map. -/

namespace Sys2Proof.Machine

open Sys2Proof

variable {s t : State} {i : Instr}

theorem Completes.fault_eq (h : Completes s i t) : t.fault = s.fault := by cases h <;> rfl

/-- HLT alone writes the mode (R57). -/
theorem Completes.mode_eq (h : Completes s i t) : t.mode = if i.mnemonic = .hlt then .halted else s.mode := by
  cases h <;> rfl

theorem Completes.mode_eq_of_ne_hlt (h : Completes s i t) (hne : i.mnemonic ≠ .hlt) : t.mode = s.mode := by
  rw [h.mode_eq, if_neg hne]

theorem Completes.mode_ne_faulted (h : Completes s i t) (hm : s.mode ≠ .faulted) : t.mode ≠ .faulted := by
  rw [h.mode_eq]
  split
  · decide
  · exact hm

/-- CMP alone writes the flags (R19). -/
theorem Completes.flags_eq (h : Completes s i t) (hne : i.mnemonic ≠ .cmp) : t.flags = s.flags := by
  cases h with
  | cmp => exact absurd rfl hne
  | _ => rfl

/-- CMP leaves the flags of a comparison. -/
theorem Completes.flags_of_cmp (h : Completes s i t) (hcmp : i.mnemonic = .cmp) :
    ∃ x y : Byte, t.flags = compareFlags x y := by
  cases h with
  | cmp ra rb => exact ⟨_, _, rfl⟩
  | _ => cases hcmp

/-- PRN alone writes the output stream (R58). -/
theorem Completes.output_eq (h : Completes s i t) (hne : i.mnemonic ≠ .prn) : t.output = s.output := by
  cases h with
  | prn => exact absurd rfl hne
  | _ => rfl

/-- PUSH and CALL alone write memory, each one byte, to the cell at the decremented stack pointer (R25). -/
theorem Completes.mem_eq (h : Completes s i t) :
    t.mem = s.mem ∨ (i.mnemonic ∈ [.push, .call] ∧ ∃ v, t.mem = s.mem.write s.decSp.sp v) := by
  cases h with
  | push ra => exact .inr ⟨by simp [Instr.mnemonic], _, rfl⟩
  | call ra => exact .inr ⟨by simp [Instr.mnemonic], _, rfl⟩
  | _ => exact .inl rfl

theorem Completes.sameMemory (h : Completes s i t) (hne : i.mnemonic ∉ [.push, .call]) : SameMemory s t := by
  obtain hmem | ⟨hstore, _⟩ := h.mem_eq
  · intro c
    rw [State.memRead, hmem, State.memRead]
  · exact absurd hstore hne

theorem Completes.sameMemoryExcept (h : Completes s i t) : SameMemoryExcept s.decSp.sp s t := by
  intro c hc
  obtain hmem | ⟨_, v, hmem⟩ := h.mem_eq
  · rw [State.memRead, hmem, State.memRead]
  · rw [State.memRead, hmem, Memory.read_write_of_ne s.mem v hc, State.memRead]

theorem Completes.mem_wf (h : Completes s i t) (hwf : s.mem.wf = true) : t.mem.wf = true := by
  obtain hmem | ⟨_, v, hmem⟩ := h.mem_eq
  · rw [hmem, hwf]
  · rw [hmem]
    exact Memory.write_wf hwf _ v

/-- An instruction whose C bit is 0 leaves `pc` where the auto-advance put it (R66). -/
theorem Completes.pc_eq (h : Completes s i t) (hC : fieldC i.mnemonic.opcode = false) :
    t.pc = s.pc + BitVec.ofNat 8 i.mnemonic.length := by
  have hset : i.mnemonic ∉ [.call, .ret, .jump, .jeq, .jne] := by
    rw [← fieldC_opcode, hC]
    decide
  cases h with
  | call | ret | jump | jeq | jne => exact absurd (by simp [Instr.mnemonic]) hset
  | _ => simp [Instr.mnemonic]

/-- No register is written but those of the table (R14). -/
theorem Completes.sameRegsExcept (h : Completes s i t) : SameRegsExcept i.writes s t := by
  intro q hq
  cases h with
  | hlt | prn | cmp | jump | jeq | jne => rfl
  | ldi ra | mul ra | add ra =>
    have hne : q ≠ ra := by simpa [Instr.writes] using hq
    exact Regs.get_set_of_ne s.regs _ hne
  | push | call | ret =>
    have hne : q ≠ .R7 := by simpa [Instr.writes] using hq
    exact Regs.get_set_of_ne s.regs _ hne
  | pop ra =>
    have hne : q ≠ .R7 ∧ q ≠ ra := by simpa [Instr.writes] using hq
    rw [popReg_reg, if_neg hne.1, if_neg hne.2, State.setPc_reg]

theorem Completes.sameControl (h : Completes s i t) (hne : i.mnemonic ≠ .hlt) : SameControl s t :=
  ⟨h.mode_eq_of_ne_hlt hne, h.fault_eq⟩

/-- The frame of every instruction that stores nothing, compares nothing, emits nothing and goes on. -/
theorem Completes.frameRegs (h : Completes s i t) (hne : i.mnemonic ∉ [.hlt, .cmp, .prn, .push, .call]) :
    FrameRegs i.writes s t := by
  simp only [List.mem_cons, List.not_mem_nil, or_false, not_or] at hne
  obtain ⟨hhlt, hcmp, hprn, hpush, hcall⟩ := hne
  exact ⟨h.sameRegsExcept, h.flags_eq hcmp, h.sameMemory (by simp [hpush, hcall]), h.sameControl hhlt,
    h.output_eq hprn⟩

/-- The frame of the two instructions that store. -/
theorem Completes.frameStore (h : Completes s i t) (hstore : i.mnemonic ∈ [.push, .call]) :
    FrameStore i.writes s.decSp.sp s t := by
  have hne : i.mnemonic ≠ .cmp ∧ i.mnemonic ≠ .hlt ∧ i.mnemonic ≠ .prn := by
    refine ⟨?_, ?_, ?_⟩ <;> (intro heq; rw [heq] at hstore; revert hstore; decide)
  obtain ⟨hcmp, hhlt, hprn⟩ := hne
  exact ⟨h.sameRegsExcept, h.flags_eq hcmp, h.sameMemoryExcept, h.sameControl hhlt, h.output_eq hprn⟩

/-! ### What an instruction does not read -/

/-- No instruction reads or writes the latches (R22, R69). -/
theorem Completes.dropLatches (h : Completes s i t) (l : Latches) :
    Completes (s.dropLatches l) i (t.dropLatches l) := by
  cases h <;> constructor

/-- No instruction reads `L` or `G`, and only CMP writes them (R18). -/
theorem Completes.setFlags (h : Completes s i t) (l g : Bool) :
    Completes (s.setFlags ⟨s.flags.E, l, g⟩) i
      (if i.mnemonic = .cmp then t else t.setFlags ⟨s.flags.E, l, g⟩) := by
  cases h <;> constructor

end Sys2Proof.Machine
end

section
/-! Canonical memories: writes, and that reading alike makes them equal (log entry 3). -/

namespace Sys2Proof.Machine

open Sys2Proof

theorem Memory.wfFrom_cons {lo addr : Nat} {v : Byte} {rest : Memory} :
    Memory.wfFrom lo ((addr, v) :: rest) = true ↔
      lo ≤ addr ∧ addr < Config.memSize ∧ v ≠ Config.unlistedCell ∧ Memory.wfFrom (addr + 1) rest = true := by
  simp only [Memory.wfFrom, Bool.and_eq_true, decide_eq_true_eq, and_assoc]

theorem Memory.lookup_cons_self (addr : Nat) (v : Byte) (rest : Memory) :
    Memory.lookup ((addr, v) :: rest) addr = v := if_pos rfl

theorem Memory.lookup_cons_of_ne {addr a : Nat} (v : Byte) (rest : Memory) (h : addr ≠ a) :
    Memory.lookup ((addr, v) :: rest) a = rest.lookup a := if_neg h

/-- A listed cell tells a canonical memory from every one that lists nothing up to it. -/
theorem Memory.not_alike_of_listed {lo addr : Nat} {v : Byte} {rest n : Memory}
    (hm : Memory.wfFrom lo ((addr, v) :: rest) = true) (hn : Memory.wfFrom (addr + 1) n = true) :
    Memory.lookup ((addr, v) :: rest) addr ≠ n.lookup addr := by
  obtain ⟨_, _, hv, _⟩ := Memory.wfFrom_cons.1 hm
  rw [Memory.lookup_cons_self, Memory.lookup_below hn (Nat.lt_succ_self addr)]
  exact hv

theorem Memory.eq_of_lookup_eq {m n : Memory} {lo : Nat} (hm : Memory.wfFrom lo m = true)
    (hn : Memory.wfFrom lo n = true) (h : ∀ a, a < Config.memSize → m.lookup a = n.lookup a) : m = n := by
  induction m generalizing lo n with
  | nil =>
    cases n with
    | nil => rfl
    | cons d rest' =>
      obtain ⟨b, w⟩ := d
      obtain ⟨_, hb, _, _⟩ := Memory.wfFrom_cons.1 hn
      exact absurd (h b hb).symm (Memory.not_alike_of_listed hn rfl)
  | cons c rest ih =>
    obtain ⟨a, v⟩ := c
    obtain ⟨hlo, ha, hv, hrest⟩ := Memory.wfFrom_cons.1 hm
    cases n with
    | nil => exact absurd (h a ha) (Memory.not_alike_of_listed hm rfl)
    | cons d rest' =>
      obtain ⟨b, w⟩ := d
      obtain ⟨hlo', hb, hw, hrest'⟩ := Memory.wfFrom_cons.1 hn
      obtain hlt | rfl | hgt := Nat.lt_trichotomy a b
      · exact absurd (h a ha) (Memory.not_alike_of_listed hm (Memory.wfFrom_cons.2 ⟨hlt, hb, hw, hrest'⟩))
      · have hvw : v = w := by simpa only [Memory.lookup_cons_self] using h a ha
        have tails_alike : ∀ c, c < Config.memSize → Memory.lookup rest c = Memory.lookup rest' c := by
          intro c hc
          by_cases hca : a = c
          · rw [← hca, Memory.lookup_below hrest (Nat.lt_succ_self a),
              Memory.lookup_below hrest' (Nat.lt_succ_self a)]
          · simpa only [Memory.lookup_cons_of_ne _ _ hca] using h c hc
        rw [hvw, ih hrest hrest' tails_alike]
      · exact absurd (h b hb).symm (Memory.not_alike_of_listed hn (Memory.wfFrom_cons.2 ⟨hgt, ha, hv, hrest⟩))

/-- Settles O4: by induction on both lists, whose heads must be the same cell. -/
theorem canonicalMemoriesAreEqualWhenTheyReadAlike :
    Obligations.CanonicalMemoriesAreEqualWhenTheyReadAlike := by
  intro m n hm hn h
  refine Memory.eq_of_lookup_eq hm hn ?_
  intro a ha
  have hbyte : (BitVec.ofNat 8 a).toNat = a := Nat.mod_eq_of_lt ha
  simpa only [Memory.read, hbyte] using h (BitVec.ofNat 8 a)

/-- Settles O3: the laws of memory, put together. -/
theorem memoryReadsLatestWrite : Obligations.MemoryReadsLatestWrite := by
  intro m a v hm
  exact ⟨Memory.write_wf hm a v, Memory.read_write_self hm a v, fun _ hc => Memory.read_write_of_ne m v hc⟩

end Sys2Proof.Machine
end

section
/-! SUPPORT. What a step leaves, in terms of the state before its fetch: a fault taken by that state, or the completed
instruction, each with the latches dropped. -/

namespace Sys2Proof.Machine

open Sys2Proof

variable {s t : State} {i : Instr}

/-! ### Latches -/

/-- States that agree on everything but the latches differ by dropping them. -/
theorem eq_dropLatches_of_sameArch (h : SameArch s t) : t = s.dropLatches t.latches := by
  obtain ⟨hregs, hpc, hflags, hmode, hfault, hmem, houtput⟩ := h
  cases s
  cases t
  subst hregs hpc hflags hmode hfault hmem houtput
  rfl

theorem State.dropLatches_invalidRegister (s : State) (m : Mnemonic) (operand : Byte) (l : Latches) :
    (s.dropLatches l).invalidRegister m operand = (s.invalidRegister m operand).dropLatches l := rfl

/-- No instruction reads the latches, a fault entry neither. -/
theorem exec_dropLatches (h : exec i s = .next t) (l : Latches) :
    exec i (s.dropLatches l) = .next (t.dropLatches l) := by
  obtain hc | ⟨operand, hb, rfl⟩ := exec_cases h
  · exact (hc.dropLatches l).exec_eq
  · rw [exec_of_badOperand _ hb, State.dropLatches_invalidRegister]

/-! ### The step -/

theorem step_of_exec (hm : s.mode = .running) (hi : s.nextInstr = .ok i) (h : exec i s = .next t) :
    step s = .next (t.dropLatches s.latchResidue) := by
  have hfetch : exec i s.fetch = .next (t.dropLatches s.fetch.latches) := exec_dropLatches h _
  rw [step_of_instr hm hi, hfetch]
  rfl

/-- The opcode byte at `pc` is the one of the instruction there. -/
theorem opcode_of_nextInstr (hi : s.nextInstr = .ok i) : i.mnemonic.opcode = s.memRead s.pc := by
  obtain ⟨m, hop, rfl⟩ := eq_buildInstr_of_decode hi
  rw [buildInstr_mnemonic, hop]

/-- What faults an instruction at `pc` raises, by what the decoder makes of the bytes there (R64, R65). -/
def State.Raises (s : State) (cause : FaultCause) : Prop :=
  (cause = .unknownOpcode ∧ s.nextInstr = .error (.unknownOpcode (s.memRead s.pc))) ∨
    ∃ i operand, cause = .invalidRegister operand ∧ s.nextInstr = .ok i ∧ i.badOperand = some operand

/-- The state after a fault of the instruction at `pc`. -/
def State.stopped (s : State) (cause : FaultCause) : State :=
  (s.takeFault cause s.pc (s.memRead s.pc)).dropLatches s.latchResidue

theorem step_of_raises {cause : FaultCause} (hm : s.mode = .running) (h : s.Raises cause) :
    step s = .next (s.stopped cause) := by
  obtain ⟨rfl, herr⟩ | ⟨i, operand, rfl, hi, hb⟩ := h
  · exact step_of_unknown hm herr
  · rw [step_of_exec hm hi (exec_of_badOperand s hb), State.invalidRegister, opcode_of_nextInstr hi]
    rfl

theorem step_of_completes (hm : s.mode = .running) (hi : s.nextInstr = .ok i) (h : Completes s i t) :
    step s = .next (t.dropLatches s.latchResidue) := step_of_exec hm hi h.exec_eq

/-- The instruction at `pc` raises a fault or completes. -/
theorem raises_or_completes (s : State) :
    (∃ cause, s.Raises cause) ∨ ∃ i t, s.nextInstr = .ok i ∧ Completes s i t := by
  obtain ⟨m, _, hi⟩ | ⟨_, herr⟩ := s.nextInstr_cases
  · obtain ⟨t, hc⟩ | ⟨operand, hb⟩ := completes_or_badOperand s (buildInstr m _ _)
    · exact .inr ⟨_, t, hi, hc⟩
    · exact .inl ⟨_, .inr ⟨_, operand, rfl, hi, hb⟩⟩
  · exact .inl ⟨_, .inl ⟨rfl, herr⟩⟩

/-- Everything a step of a running state can leave. -/
theorem running_step_cases (hm : s.mode = .running) (h : step s = .next t) :
    (∃ cause, s.Raises cause ∧ t = s.stopped cause) ∨
      ∃ i u, s.nextInstr = .ok i ∧ Completes s i u ∧ t = u.dropLatches s.latchResidue := by
  obtain ⟨cause, hr⟩ | ⟨i, u, hi, hc⟩ := raises_or_completes s
  · rw [step_of_raises hm hr] at h
    cases h
    exact .inl ⟨cause, hr, rfl⟩
  · rw [step_of_completes hm hi hc] at h
    cases h
    exact .inr ⟨i, u, hi, hc, rfl⟩

theorem eq_of_step_of_not_running (hm : s.mode ≠ .running) (h : step s = .next t) : t = s := by
  rw [step_of_not_running hm] at h
  cases h
  rfl

/-- Every step answers a next state (log entry 11). -/
theorem step_next (s : State) : ∃ t, step s = .next t := by
  by_cases hm : s.mode = .running
  · obtain ⟨cause, hr⟩ | ⟨i, t, hi, hc⟩ := raises_or_completes s
    · exact ⟨_, step_of_raises hm hr⟩
    · exact ⟨_, step_of_completes hm hi hc⟩
  · exact ⟨s, step_of_not_running hm⟩

theorem step_afterStep (s : State) : step s = .next s.afterStep := by
  obtain ⟨t, h⟩ := step_next s
  rw [h, State.afterStep_of_step h]

/-! ### Faults -/

theorem stopped_mode (s : State) (cause : FaultCause) : (s.stopped cause).mode = .faulted := rfl

theorem faultTaken_stopped (s : State) (cause : FaultCause) : FaultTaken s (s.stopped cause) cause (s.memRead s.pc) :=
  ⟨rfl, rfl, rfl, fun _ _ => rfl, rfl, fun _ => rfl, rfl⟩

theorem faultTaken_invalidRegister (s : State) (m : Mnemonic) (operand : Byte) :
    FaultTaken s (s.invalidRegister m operand) (.invalidRegister operand) m.opcode :=
  ⟨rfl, rfl, rfl, fun _ _ => rfl, rfl, fun _ => rfl, rfl⟩

/-- An instruction at `pc` that faults does not complete, and one that completes raises no fault. -/
theorem not_completes_of_raises {cause : FaultCause} (hr : s.Raises cause) (hi : s.nextInstr = .ok i) :
    ¬ Completes s i t := by
  intro hc
  obtain ⟨_, herr⟩ | ⟨j, operand, _, hj, hb⟩ := hr
  · rw [hi] at herr
    cases herr
  · rw [hi] at hj
    cases hj
    rw [hc.badOperand] at hb
    cases hb

theorem State.Raises.code_ne {cause : FaultCause} (hr : s.Raises cause) :
    cause.code ≠ .none ∧ cause.code ≠ .unsupportedALUOp := by
  obtain ⟨rfl, _⟩ | ⟨_, _, rfl, _⟩ := hr <;> simp [FaultCause.code]

end Sys2Proof.Machine
end

section
/-! The invariant (O49 to O51): canonical memory, at most one flag, a truthful fault status. -/

namespace Sys2Proof.Machine

open Sys2Proof

variable {s t : State} {i : Instr}

theorem compareFlags_atMostOne (x y : Byte) : (compareFlags x y).atMostOne = true := by
  unfold compareFlags
  split
  · rfl
  · split <;> rfl

theorem Completes.flags_atMostOne (h : Completes s i t) (hs : s.flags.atMostOne = true) :
    t.flags.atMostOne = true := by
  by_cases hcmp : i.mnemonic = .cmp
  · obtain ⟨x, y, hflags⟩ := h.flags_of_cmp hcmp
    rw [hflags]
    exact compareFlags_atMostOne x y
  · rw [h.flags_eq hcmp]
    exact hs

/-- The invariant reads no latch. -/
theorem inv_dropLatches (l : Latches) : (s.dropLatches l).Inv ↔ s.Inv := Iff.rfl

theorem Completes.inv (h : Completes s i t) (hm : s.mode = .running) (hs : s.Inv) : t.Inv := by
  obtain ⟨hwf, hflags, hclear, _⟩ := hs
  have hne : s.mode ≠ .faulted := by rw [hm]; decide
  have hne' : t.mode ≠ .faulted := h.mode_ne_faulted hne
  exact ⟨h.mem_wf hwf, h.flags_atMostOne hflags, fun _ => by rw [h.fault_eq, hclear hne],
    fun hfaulted => absurd hfaulted hne'⟩

/-- A fault records the instruction that raised it. -/
theorem faultRecorded_stopped {cause : FaultCause} (hr : s.Raises cause) : (s.stopped cause).faultRecorded := by
  refine ⟨rfl, rfl, ?_⟩
  obtain ⟨rfl, herr⟩ | ⟨i, operand, rfl, hi, hb⟩ := hr
  · exact .inl ⟨rfl, rfl, herr⟩
  · exact .inr ⟨rfl, i, hi, hb⟩

theorem stopped_inv {cause : FaultCause} (hr : s.Raises cause) (hs : s.Inv) : (s.stopped cause).Inv := by
  obtain ⟨hwf, hflags, _, _⟩ := hs
  exact ⟨hwf, hflags, fun hne => absurd (stopped_mode s cause) hne, fun _ => faultRecorded_stopped hr⟩

/-- Settles O50: outside Running nothing changes; a fault records itself, and a completed instruction leaves the clear
fault status of a running state. -/
theorem stepKeepsTheInvariant : Obligations.StepKeepsTheInvariant := by
  intro s t hs h
  by_cases hm : s.mode = .running
  · obtain ⟨cause, hr, rfl⟩ | ⟨i, u, _, hc, rfl⟩ := running_step_cases hm h
    · exact stopped_inv hr hs
    · exact (inv_dropLatches _).2 (hc.inv hm hs)
  · rw [eq_of_step_of_not_running hm h]
    exact hs

/-! ### Transactions -/

theorem inv_afterStep (hs : s.Inv) : s.afterStep.Inv := stepKeepsTheInvariant s s.afterStep hs (step_afterStep s)

theorem inv_runWhile (fuel : Nat) (hs : s.Inv) : (runWhile fuel s).2.Inv := by
  induction fuel generalizing s with
  | zero => exact hs
  | succ fuel ih =>
    by_cases hm : s.mode = .running
    · rw [runWhile_of_running hm]
      exact ih (inv_afterStep hs)
    · rw [runWhile_of_not_running hm]
      exact hs

/-- Changes of memory outside Faulted keep the invariant when they keep the canonical form. -/
theorem inv_withMem {m : Memory} (hm : s.mode ≠ .faulted) (hwf : m.wf = true) (hs : s.Inv) :
    ({ s with mem := m } : State).Inv := by
  obtain ⟨_, hflags, hclear, _⟩ := hs
  exact ⟨hwf, hflags, hclear, fun hfaulted => absurd hfaulted hm⟩

theorem inv_setMode_running (hm : s.mode ≠ .faulted) (hs : s.Inv) : (s.setMode .running).Inv := by
  obtain ⟨hwf, hflags, hclear, _⟩ := hs
  exact ⟨hwf, hflags, fun _ => hclear hm, fun hfaulted => by cases hfaulted⟩

/-- Settles O49: each part of the invariant by the reset values. -/
theorem resetMeetsTheInvariant : Obligations.ResetMeetsTheInvariant :=
  ⟨rfl, rfl, fun _ => rfl, fun hfaulted => by cases hfaulted⟩

end Sys2Proof.Machine
end

section
/-! SUPPORT. What each host transaction answers, by the mode (R55, R57, R108, R109). -/

namespace Sys2Proof.Machine

open Sys2Proof

variable {s : State}

theorem start_of_halted (h : s.mode = .halted) : start s = (.accepted, s.setMode .running) := by
  simp only [start, h]

theorem start_of_not_halted (h : s.mode ≠ .halted) : start s = (.refused, s) := by
  cases hm : s.mode with
  | halted => exact absurd hm h
  | running | faulted => simp only [start, hm]

theorem load_of_halted {bytes : List Byte} (h : s.mode = .halted) (hlen : bytes.length ≤ 256) :
    load bytes s = (.accepted, s.writeBytes Config.loadBase bytes) := by
  simp only [load, h, Config.memSize, hlen, if_true]

theorem load_refused {bytes : List Byte} (h : s.mode ≠ .halted ∨ 256 < bytes.length) :
    load bytes s = (.refused, s) := by
  cases hm : s.mode with
  | running | faulted => simp only [load, hm]
  | halted =>
    have hlen : ¬ bytes.length ≤ 256 := by
      obtain hne | hlt := h
      · exact absurd hm hne
      · omega
    simp only [load, hm, Config.memSize, hlen, if_false]

theorem run_of_halted (h : s.mode = .halted) (fuel : Nat) :
    run fuel s = (.ran (runWhile fuel (s.setMode .running)).1, (runWhile fuel (s.setMode .running)).2) := by
  simp only [run, start_of_halted h]

theorem run_of_not_halted (h : s.mode ≠ .halted) (fuel : Nat) : run fuel s = (.refused, s) := by
  simp only [run, start_of_not_halted h]

/-! ### The invariant through them -/

theorem inv_load (bytes : List Byte) (hs : s.Inv) : (load bytes s).2.Inv := by
  by_cases h : s.mode ≠ .halted ∨ 256 < bytes.length
  · rw [load_refused h]
    exact hs
  · simp only [not_or, not_not, not_lt] at h
    obtain ⟨hm, hlen⟩ := h
    obtain ⟨m, heq, hwf⟩ := s.writeBytes_eq bytes Config.loadBase
    rw [load_of_halted hm hlen, heq]
    exact inv_withMem (by rw [hm]; decide) (hwf hs.1) hs

theorem inv_start (hs : s.Inv) : (start s).2.Inv := by
  by_cases hm : s.mode = .halted
  · rw [start_of_halted hm]
    exact inv_setMode_running (by rw [hm]; decide) hs
  · rw [start_of_not_halted hm]
    exact hs

theorem inv_run (fuel : Nat) (hs : s.Inv) : (run fuel s).2.Inv := by
  by_cases hm : s.mode = .halted
  · rw [run_of_halted hm]
    exact inv_runWhile fuel (inv_setMode_running (by rw [hm]; decide) hs)
  · rw [run_of_not_halted hm]
    exact hs

/-- Settles O51: one lemma per transaction that changes the state. -/
theorem everyTransactionKeepsTheInvariant : Obligations.EveryTransactionKeepsTheInvariant := by
  intro r s hs
  cases r with
  | reset => exact resetMeetsTheInvariant
  | load bytes => exact inv_load bytes hs
  | start => exact inv_start hs
  | step => exact inv_afterStep hs
  | run fuel => exact inv_run fuel hs
  | status | trace | debugRead => exact hs

end Sys2Proof.Machine
end

section
/-! The step and its faults (R56, R57, R62 to R68, R90 to R97). -/

namespace Sys2Proof.Machine

open Sys2Proof

variable {s t : State} {i : Instr}

/-- The address arithmetic of a step wraps modulo 256 (R26). -/
theorem ofNat_add_mod (a : Byte) (k : Nat) :
    BitVec.ofNat 8 ((a.toNat + k) % 256) = a + BitVec.ofNat 8 k := by
  apply BitVec.eq_of_toNat_eq
  simp [BitVec.toNat_add]

/-! ### The instruction at `pc` -/

theorem nextInstr_of_opcode {m : Mnemonic} (h : s.memRead s.pc = m.opcode) :
    s.nextInstr = .ok (buildInstr m (s.memRead (s.pc + 1#8)) (s.memRead (s.pc + 2#8))) := by
  rw [State.nextInstr, h, decode_opcode]

theorem mnemonic_eq_iff (hi : s.nextInstr = .ok i) (m : Mnemonic) :
    i.mnemonic = m ↔ s.memRead s.pc = m.opcode := by
  rw [← opcode_of_nextInstr hi]
  exact ⟨congrArg Mnemonic.opcode, opcode_injective⟩

theorem nextInstr_of_unlisted (h : s.memRead s.pc ∉ opcodeMap.map OpcodeRow.opcode) :
    s.nextInstr = .error (.unknownOpcode (s.memRead s.pc)) := by
  obtain ⟨m, hop, _⟩ | ⟨_, herr⟩ := s.nextInstr_cases
  · rw [hop] at h
    exact absurd (opcode_mem_opcodeMap m) h
  · exact herr

/-! ### When a step faults -/

theorem exists_raises_iff (s : State) :
    (∃ cause, s.Raises cause) ↔ s.nextInstr = .error (.unknownOpcode (s.memRead s.pc)) ∨
      ∃ i, s.nextInstr = .ok i ∧ i.wellFormed = false := by
  constructor
  · rintro ⟨cause, ⟨_, herr⟩ | ⟨i, operand, _, hi, hb⟩⟩
    · exact .inl herr
    · refine .inr ⟨i, hi, Bool.eq_false_iff.2 fun hwf => ?_⟩
      rw [(wellFormed_iff_badOperand i).1 hwf] at hb
      cases hb
  · rintro (herr | ⟨i, hi, hwf⟩)
    · exact ⟨_, .inl ⟨rfl, herr⟩⟩
    · obtain ⟨t, hc⟩ | ⟨operand, hb⟩ := completes_or_badOperand s i
      · rw [hc.wellFormed] at hwf
        cases hwf
      · exact ⟨_, .inr ⟨i, operand, rfl, hi, hb⟩⟩

theorem faulted_iff_raises (hm : s.mode = .running) (h : step s = .next t) :
    t.mode = .faulted ↔ ∃ cause, s.Raises cause := by
  obtain ⟨cause, hr, rfl⟩ | ⟨i, u, hi, hc, rfl⟩ := running_step_cases hm h
  · exact iff_of_true rfl ⟨cause, hr⟩
  · have goes_on : u.mode ≠ .faulted := hc.mode_ne_faulted (by rw [hm]; decide)
    exact iff_of_false goes_on fun ⟨_, hr⟩ => not_completes_of_raises hr hi hc

/-- A step that does not fault completes the instruction at `pc`. -/
theorem completes_of_not_faulted (hm : s.mode = .running) (h : step s = .next t) (hne : t.mode ≠ .faulted) :
    ∃ i u, s.nextInstr = .ok i ∧ Completes s i u ∧ t = u.dropLatches s.latchResidue := by
  obtain ⟨cause, _, rfl⟩ | hcompletes := running_step_cases hm h
  · exact absurd (stopped_mode s cause) hne
  · exact hcompletes

/-! ### The statements -/

/-- Settles O22: the fetch's two addresses, with the wrap written out. -/
theorem fetchLatchesThreeBytes : Obligations.FetchLatchesThreeBytes := by
  intro s
  refine ⟨?_, sameArch_fetch s⟩
  rw [State.fetch_latches, ofNat_add_mod, ofNat_add_mod]

/-- Settles O23: the step is `exec` of the decoded instruction with the latches dropped. -/
theorem stepRunsTheDecodedInstruction : Obligations.StepRunsTheDecodedInstruction := by
  intro s i hm hi
  obtain ⟨t, hexec⟩ := exec_next s i
  exact ⟨t, _, hexec, step_of_exec hm hi hexec, sameArch_dropLatches _ t⟩

/-- Settles O24: by the guard of the step. -/
theorem stepHasNoEffectUnlessRunning : Obligations.StepHasNoEffectUnlessRunning :=
  fun _ hm => step_of_not_running hm

/-- Settles O25: a byte that no row of the opcode map lists raises UnknownOpcode. -/
theorem unknownOpcodeIsFatal : Obligations.UnknownOpcodeIsFatal := by
  intro s hm hunlisted
  have hr : s.Raises .unknownOpcode := .inl ⟨rfl, nextInstr_of_unlisted hunlisted⟩
  exact ⟨_, step_of_raises hm hr, faultTaken_stopped s .unknownOpcode⟩

/-- Settles O26: a bad operand is raised, and a well-formed instruction completes. -/
theorem invalidRegisterIsFatal : Obligations.InvalidRegisterIsFatal := by
  intro s i hm hi
  constructor
  · intro operand hb
    have hr : s.Raises (.invalidRegister operand) := .inr ⟨i, operand, rfl, hi, hb⟩
    exact ⟨_, step_of_raises hm hr, faultTaken_stopped s (.invalidRegister operand)⟩
  · intro hwf
    obtain ⟨u, hc⟩ := completes_of_wellFormed s hwf
    exact ⟨_, step_of_completes hm hi hc, hc.mode_ne_faulted (by rw [hm]; decide), hc.fault_eq⟩

/-- Settles O27: HLT raises nothing and alone halts; a step faults exactly when the instruction at `pc` raises a
fault. -/
theorem onlyHltAndFaultsStopARun : Obligations.OnlyHltAndFaultsStopARun := by
  intro s t hm h
  refine ⟨?_, (faulted_iff_raises hm h).trans (exists_raises_iff s)⟩
  obtain ⟨cause, hr, rfl⟩ | ⟨i, u, hi, hc, rfl⟩ := running_step_cases hm h
  · have not_hlt : s.memRead s.pc ≠ 0x01#8 := fun hop =>
      not_completes_of_raises hr (nextInstr_of_opcode (m := .hlt) hop) .hlt
    exact iff_of_false (by rw [stopped_mode]; decide) not_hlt
  · have hhlt : i.mnemonic = .hlt ↔ s.memRead s.pc = 0x01#8 := mnemonic_eq_iff hi .hlt
    rw [State.dropLatches_mode, hc.mode_eq, hm, ← hhlt]
    simp

/-- Settles O28: a step that ends in Faulted completed nothing, so it took a fault. -/
theorem faultsArePrecise : Obligations.FaultsArePrecise := by
  intro s t hm h hfaulted
  obtain ⟨cause, hr, rfl⟩ | ⟨i, u, _, hc, rfl⟩ := running_step_cases hm h
  · obtain ⟨hcode, _⟩ := hr.code_ne
    exact ⟨rfl, rfl, rfl, rfl, rfl, rfl, rfl, hcode⟩
  · exact absurd hfaulted (hc.mode_ne_faulted (by rw [hm]; decide))

/-- The ALU raises UnsupportedALUOp for every operation but its three (R74). -/
theorem alu_unsupported_iff (m : Mnemonic) (addr : Byte) (ra rb : Reg) (s : State)
    (hs : s.fault.code ≠ .unsupportedALUOp) :
    (alu m addr ra rb s).fault.code = .unsupportedALUOp ↔ m ∉ [.add, .mul, .cmp] := by
  cases m with
  | add | mul | cmp => exact iff_of_false hs (by simp)
  | _ => exact iff_of_true rfl (by simp)

/-- Settles O29: no cause a step raises is UnsupportedALUOp, and a completed instruction keeps the fault status. -/
theorem unsupportedAluOpIsNeverRaised : Obligations.UnsupportedAluOpIsNeverRaised := by
  refine ⟨?_, alu_unsupported_iff⟩
  intro s t h hs
  by_cases hm : s.mode = .running
  · obtain ⟨cause, hr, rfl⟩ | ⟨i, u, _, hc, rfl⟩ := running_step_cases hm h
    · exact hr.code_ne.2
    · rw [State.dropLatches_fault, hc.fault_eq]
      exact hs
  · rw [eq_of_step_of_not_running hm h]
    exact hs

/-- Settles O30: an instruction completes or has a bad operand; a step completes, faults or has no effect. -/
theorem everyStepHasANextState : Obligations.EveryStepHasANextState :=
  ⟨fun i s => exec_next s i, step_next⟩

/-- Settles O31: the completed instruction's `pc`, with its length read from the opcode byte. -/
theorem autoAdvanceIsExact : Obligations.AutoAdvanceIsExact := by
  intro s t i hm hi h hne hC
  obtain ⟨j, u, hj, hc, rfl⟩ := completes_of_not_faulted hm h hne
  rw [hi] at hj
  cases hj
  rw [← opcode_of_nextInstr hi] at hC ⊢
  rw [State.dropLatches_pc, hc.pc_eq hC, BitVec.toNat_add, BitVec.toNat_ofNat, Nat.add_mod_mod, Nat.add_assoc]
  rfl

end Sys2Proof.Machine
end

section
/-! What each part of the state can be changed by (R14, R18, R19, R22, R25, R58). -/

namespace Sys2Proof.Machine

open Sys2Proof

variable {s t : State}

/-- A fault entry, like a step outside Running, leaves the flags, memory and the output stream; any other step completes
the instruction at `pc`. -/
theorem step_keeps_or_completes (h : step s = .next t) :
    (t.flags = s.flags ∧ t.mem = s.mem ∧ t.output = s.output) ∨
      (s.mode = .running ∧
        ∃ i u, s.nextInstr = .ok i ∧ Completes s i u ∧ t = u.dropLatches s.latchResidue) := by
  by_cases hm : s.mode = .running
  · obtain ⟨cause, _, rfl⟩ | hcompletes := running_step_cases hm h
    · exact .inl ⟨rfl, rfl, rfl⟩
    · exact .inr ⟨hm, hcompletes⟩
  · rw [eq_of_step_of_not_running hm h]
    exact .inl ⟨rfl, rfl, rfl⟩

theorem sameMemory_of_mem_eq (h : t.mem = s.mem) : SameMemory s t := by
  intro c
  rw [State.memRead, h, State.memRead]

/-- Settles O32: only CMP writes the flags, and it leaves those of a comparison. -/
theorem onlyCmpWritesTheFlags : Obligations.OnlyCmpWritesTheFlags := by
  intro s t hm h
  constructor
  · intro hop
    obtain ⟨hflags, _, _⟩ | ⟨_, i, u, hi, hc, rfl⟩ := step_keeps_or_completes h
    · exact hflags
    · exact hc.flags_eq fun hcmp => hop ((mnemonic_eq_iff hi .cmp).1 hcmp)
  · intro hop hne
    obtain ⟨i, u, hi, hc, rfl⟩ := completes_of_not_faulted hm h hne
    obtain ⟨x, y, hflags⟩ := hc.flags_of_cmp ((mnemonic_eq_iff hi .cmp).2 hop)
    rw [State.dropLatches_flags, hflags]
    exact compareFlags_count x y

/-- Settles O33: only PUSH and CALL store, to the cell at the decremented stack pointer. -/
theorem onlyPushAndCallWriteMemory : Obligations.OnlyPushAndCallWriteMemory := by
  intro s t h
  obtain ⟨_, hmem, _⟩ | ⟨_, i, u, hi, hc, rfl⟩ := step_keeps_or_completes h
  · exact ⟨fun _ _ => sameMemory_of_mem_eq hmem, fun c _ => sameMemory_of_mem_eq hmem c⟩
  · refine ⟨fun hpush hcall => ?_, hc.sameMemoryExcept⟩
    have not_store : i.mnemonic ∉ [.push, .call] := by
      simp only [List.mem_cons, List.not_mem_nil, or_false, mnemonic_eq_iff hi]
      exact not_or.2 ⟨hpush, hcall⟩
    exact hc.sameMemory not_store

/-- Settles O34: a PRN of a register completes and emits it; no other completed instruction writes the output stream. -/
theorem onlyPrnEmits : Obligations.OnlyPrnEmits := by
  intro s t h
  constructor
  · intro r hm hop hoperand
    have hi : s.nextInstr = .ok (.prn r.byte) := by
      rw [nextInstr_of_opcode (m := .prn) hop, hoperand]
      rfl
    rw [step_of_completes hm hi (.prn r)] at h
    cases h
    rfl
  · intro hno
    obtain ⟨_, _, houtput⟩ | ⟨hm, i, u, hi, hc, rfl⟩ := step_keeps_or_completes h
    · exact houtput
    · refine hc.output_eq fun hprn => ?_
      have hop : s.memRead s.pc = Mnemonic.prn.opcode := (mnemonic_eq_iff hi .prn).1 hprn
      obtain hm' | hop' | hbad := hno
      · exact hm' hm
      · exact hop' hop
      · rw [nextInstr_of_opcode hop] at hi
        cases hi
        have hb : (Instr.prn (s.memRead (s.pc + 1#8))).badOperand = some _ := badOperand_first rfl hbad
        exact Option.some_ne_none _ (hb.symm.trans hc.badOperand)

/-- Settles O35: a fault writes no register, and a completed instruction those of the table. -/
theorem registersWrittenAreThoseOfTheTable : Obligations.RegistersWrittenAreThoseOfTheTable := by
  intro i s t h
  obtain hc | ⟨operand, _, rfl⟩ := exec_cases h
  · exact hc.sameRegsExcept
  · exact fun _ _ => rfl

/-- Settles O36: with other values of `L` and `G` a fault is the same, and so is a completed instruction. -/
theorem noInstructionReadsLOrG : Obligations.NoInstructionReadsLOrG := by
  intro i s t l g h
  obtain hc | ⟨operand, hb, rfl⟩ := exec_cases h
  · refine ⟨_, (hc.setFlags l g).exec_eq, ?_⟩
    split
    · exact ⟨rfl, rfl, rfl, rfl, rfl, rfl, rfl⟩
    · next hcmp => exact ⟨rfl, rfl, by rw [hc.flags_eq hcmp]; rfl, rfl, rfl, rfl, rfl⟩
  · exact ⟨_, exec_of_badOperand _ hb, rfl, rfl, rfl, rfl, rfl, rfl, rfl⟩

/-- Settles O37: the fetch overwrites the latches before anything reads them. -/
theorem noStepReadsOldLatches : Obligations.NoStepReadsOldLatches := by
  intro s s' t hsame h
  rw [eq_dropLatches_of_sameArch hsame]
  by_cases hm : s.mode = .running
  · obtain ⟨cause, hr, rfl⟩ | ⟨i, u, hi, hc, rfl⟩ := running_step_cases hm h
    · exact ⟨_, step_of_raises (s := s.dropLatches s'.latches) hm hr, SameArch.refl (s.stopped cause)⟩
    · exact ⟨_, step_of_completes (s := s.dropLatches s'.latches) hm hi (hc.dropLatches _), SameArch.refl u⟩
  · rw [eq_of_step_of_not_running hm h]
    exact ⟨_, step_of_not_running (s := s.dropLatches s'.latches) hm, sameArch_dropLatches _ s⟩

/-! ### Stores and the next fetch -/

theorem Memory.read_write {m : Memory} (hm : m.wf = true) (a v c : Byte) :
    (m.write a v).read c = if c = a then v else m.read c := by
  split
  · next h => rw [h, Memory.read_write_self hm]
  · next h => exact Memory.read_write_of_ne m v h

/-- The byte PUSH stores is read after the decrement (R79, decision D15). -/
theorem pushReg_mem_eq (ra : Reg) (s : State) :
    (pushReg ra s).mem = s.mem.write s.decSp.sp (if ra = .R7 then s.decSp.sp else s.reg ra) := by
  rw [pushReg_mem, State.decSp_reg, State.decSp_sp]

/-- Settles O38: after the one store every read, those of the fetch too, goes to the memory written. -/
theorem storesAreVisibleToTheNextFetch : Obligations.StoresAreVisibleToTheNextFetch := by
  intro i stored s t hwf h hstore
  have hmem : t.mem = s.mem.write s.decSp.sp stored := by
    obtain ⟨ra, rfl, rfl⟩ | ⟨ra, rfl, rfl⟩ := hstore
    · rw [exec_push] at h
      cases h
      exact pushReg_mem_eq ra (s.setPc (s.pc + 2#8))
    · rw [exec_call] at h
      cases h
      exact callReg_mem s ra
  have hread : ∀ c, t.memRead c = if c = s.decSp.sp then stored else s.memRead c := by
    intro c
    rw [State.memRead, hmem, Memory.read_write hwf, State.memRead]
  exact ⟨hread, hread t.pc, hread (t.pc + 1#8), hread (t.pc + 2#8)⟩

end Sys2Proof.Machine
end

section
/-! The register file (R8, R12, R13) and the instructions one by one (R71 to R89): decoding, result, frame and
InvalidRegister. -/

namespace Sys2Proof.Machine

open Sys2Proof

variable {s t : State} {i : Instr}

/-! ### Parts the instructions share -/

/-- An instruction with a bad operand takes InvalidRegister with the first one. -/
theorem takesInvalidRegister_of_badOperand (s : State) {operand : Byte} (h : i.badOperand = some operand) :
    TakesInvalidRegister i i.mnemonic.opcode operand s :=
  ⟨_, exec_of_badOperand s h, faultTaken_invalidRegister s i.mnemonic operand⟩

theorem FrameRegs.mono {ws ws' : List Reg} (h : FrameRegs ws s t) (hsub : ws ⊆ ws') : FrameRegs ws' s t := by
  obtain ⟨hregs, hrest⟩ := h
  exact ⟨fun r hr => hregs r fun hmem => hr (hsub hmem), hrest⟩

theorem toNat_sub_one (a : Byte) : (a - 1#8).toNat = (a.toNat + 255) % 256 := by bv_omega

@[simp] theorem pushReg_sp (ra : Reg) (s : State) : (pushReg ra s).sp = s.decSp.sp := rfl
@[simp] theorem callReg_sp (ra : Reg) (s : State) : (callReg ra s).sp = s.decSp.sp := rfl
@[simp] theorem returnFromCall_sp (s : State) : (returnFromCall s).sp = s.sp + 1#8 := rfl

theorem decSp_sp_toNat (s : State) : s.decSp.sp.toNat = (s.sp.toNat + 255) % 256 := toNat_sub_one s.sp

/-- PUSH's byte reads back at the new stack pointer. -/
theorem pushReg_memRead_sp (hwf : s.mem.wf = true) (ra : Reg) :
    (pushReg ra s).memRead s.decSp.sp = if ra = .R7 then s.decSp.sp else s.reg ra := by
  rw [State.memRead, pushReg_mem_eq, Memory.read_write_self hwf]

/-- CALL's return address reads back at the new stack pointer. -/
theorem callReg_memRead_sp (hwf : s.mem.wf = true) (ra : Reg) :
    (callReg ra s).memRead s.decSp.sp = s.pc + 2#8 := by
  rw [State.memRead, callReg_mem]
  exact Memory.read_write_self hwf _ _

/-! ### The statements -/

/-- Settles O2: the laws of the register file, put together. -/
theorem registerFileHoldsEightRegisters : Obligations.RegisterFileHoldsEightRegisters := by
  refine ⟨?names, fun _ _ => reg_byte_injective, ?write, ?sp, State.sp_eq⟩
  case names =>
    intro a
    constructor
    · intro ha
      exact (reg_byte_or_bad a).resolve_right (by omega)
    · rintro ⟨r, rfl⟩
      cases r <;> decide
  case write =>
    intro s r v
    refine ⟨by rw [State.setReg_reg, if_pos rfl], fun q hq => ?_⟩
    rw [State.setReg_reg, if_neg (by simpa using hq)]
  case sp =>
    intro s v
    rw [State.setReg_sp, if_pos rfl]

/-- Settles O9: the sum is written to the first register. -/
theorem addWritesTheSumModulo256 : Obligations.AddWritesTheSumModulo256 := by
  refine ⟨decode_opcode .add, ?completes, fun a b s ha => takesInvalidRegister_of_badOperand s (badOperand_first rfl ha),
    fun ra b s hb => takesInvalidRegister_of_badOperand s (badOperand_second rfl hb)⟩
  intro ra rb s
  have hc : Completes s (.add ra.byte rb.byte) _ := .add ra rb
  refine ⟨_, hc.exec_eq, ?sum, BitVec.toNat_add s.pc 3#8, ?frame⟩
  case sum =>
    rw [State.setReg_reg, if_pos rfl]
    exact BitVec.toNat_add _ _
  case frame => simpa [Instr.writes] using hc.frameRegs (by simp [Instr.mnemonic])

/-- Settles O10: the low byte of the product is written to the first register. -/
theorem mulWritesTheLowByteOfTheProduct : Obligations.MulWritesTheLowByteOfTheProduct := by
  refine ⟨decode_opcode .mul, ?completes, fun a b s ha => takesInvalidRegister_of_badOperand s (badOperand_first rfl ha),
    fun ra b s hb => takesInvalidRegister_of_badOperand s (badOperand_second rfl hb)⟩
  intro ra rb s
  have hc : Completes s (.mul ra.byte rb.byte) _ := .mul ra rb
  refine ⟨_, hc.exec_eq, ?product, BitVec.toNat_add s.pc 3#8, ?frame⟩
  case product =>
    rw [State.setReg_reg, if_pos rfl]
    exact BitVec.toNat_mul _ _
  case frame => simpa [Instr.writes] using hc.frameRegs (by simp [Instr.mnemonic])

/-- Settles O11: the flags are those of the comparison of the two registers. -/
theorem cmpSetsExactlyOneFlag : Obligations.CmpSetsExactlyOneFlag := by
  refine ⟨decode_opcode .cmp, ?completes, fun a b s ha => takesInvalidRegister_of_badOperand s (badOperand_first rfl ha),
    fun ra b s hb => takesInvalidRegister_of_badOperand s (badOperand_second rfl hb)⟩
  intro ra rb s
  have hc : Completes s (.cmp ra.byte rb.byte) _ := .cmp ra rb
  exact ⟨_, hc.exec_eq, (compareFlags_E _ _).trans BitVec.toNat_inj.symm, compareFlags_L _ _, compareFlags_G _ _,
    compareFlags_count _ _, BitVec.toNat_add s.pc 3#8, hc.sameRegsExcept, hc.sameMemory (by simp [Instr.mnemonic]),
    hc.sameControl (by simp [Instr.mnemonic]), hc.output_eq (by simp [Instr.mnemonic])⟩

/-- Settles O13: the immediate is written to the register. -/
theorem ldiLoadsTheImmediate : Obligations.LdiLoadsTheImmediate := by
  refine ⟨decode_opcode .ldi, ?completes,
    fun a imm s ha => takesInvalidRegister_of_badOperand s (badOperand_first rfl ha)⟩
  intro ra imm s
  have hc : Completes s (.ldi ra.byte imm) _ := .ldi ra imm
  refine ⟨_, hc.exec_eq, ?value, BitVec.toNat_add s.pc 3#8, ?frame⟩
  case value => rw [State.setReg_reg, if_pos rfl]
  case frame => simpa [Instr.writes] using hc.frameRegs (by simp [Instr.mnemonic])

/-- Settles O14: the register's value is appended. -/
theorem prnEmitsTheRegister : Obligations.PrnEmitsTheRegister := by
  refine ⟨decode_opcode .prn, ?completes,
    fun a s ha => takesInvalidRegister_of_badOperand s (badOperand_first rfl ha)⟩
  intro ra s
  have hc : Completes s (.prn ra.byte) _ := .prn ra
  exact ⟨_, hc.exec_eq, State.emit_output _ _, BitVec.toNat_add s.pc 2#8, hc.sameRegsExcept,
    hc.flags_eq (by simp [Instr.mnemonic]), hc.sameMemory (by simp [Instr.mnemonic]),
    hc.sameControl (by simp [Instr.mnemonic])⟩

/-- Settles O15: the byte stored is read after the decrement. -/
theorem pushStoresBelowTheStackPointer : Obligations.PushStoresBelowTheStackPointer := by
  refine ⟨decode_opcode .push, ?completes,
    fun a s ha => takesInvalidRegister_of_badOperand s (badOperand_first rfl ha)⟩
  intro ra s
  have hc : Completes s (.push ra.byte) _ := .push ra
  exact ⟨_, hc.exec_eq, pushReg_sp ra _, decSp_sp_toNat s, fun hwf => pushReg_memRead_sp (s := s.setPc _) hwf ra,
    BitVec.toNat_add s.pc 2#8, hc.frameStore (by simp [Instr.mnemonic])⟩

/-- Settles O16: R7 takes the increment after the loaded byte, the other registers keep that byte. -/
theorem popLoadsFromTheStackPointer : Obligations.PopLoadsFromTheStackPointer := by
  refine ⟨decode_opcode .pop, ?completes,
    fun a s ha => takesInvalidRegister_of_badOperand s (badOperand_first rfl ha)⟩
  intro ra s
  have hc : Completes s (.pop ra.byte) _ := .pop ra
  refine ⟨_, hc.exec_eq, ?other, ?sp, BitVec.toNat_add s.pc 2#8, ?frame⟩
  case other =>
    intro hra
    refine ⟨by rw [popReg_reg, if_neg hra, if_pos rfl]; rfl, ?_⟩
    rw [State.sp_eq, popReg_reg, if_pos rfl, if_neg hra]
    exact BitVec.toNat_add s.sp 1#8
  case sp =>
    intro hra
    rw [State.sp_eq, popReg_reg, if_pos rfl, if_pos hra]
    exact BitVec.toNat_add (s.memRead s.sp) 1#8
  case frame =>
    exact (hc.frameRegs (by simp [Instr.mnemonic])).mono (by simp [Instr.writes])

/-- Settles O17: the return address is stored at the decremented stack pointer. -/
theorem callPushesTheReturnAddress : Obligations.CallPushesTheReturnAddress := by
  refine ⟨decode_opcode .call, ?completes,
    fun a s ha => takesInvalidRegister_of_badOperand s (badOperand_first rfl ha)⟩
  intro ra s
  have hc : Completes s (.call ra.byte) _ := .call ra
  refine ⟨_, hc.exec_eq, callReg_sp ra s, decSp_sp_toNat s, ?stored, s.decSp_reg ra,
    hc.frameStore (by simp [Instr.mnemonic])⟩
  intro hwf
  rw [callReg_memRead_sp hwf]
  exact BitVec.toNat_add s.pc 2#8

/-- Settles O19: the branch is always taken. -/
theorem jumpTakesTheRegisterAsTarget : Obligations.JumpTakesTheRegisterAsTarget := by
  refine ⟨decode_opcode .jump, ?completes,
    fun a s ha => takesInvalidRegister_of_badOperand s (badOperand_first rfl ha)⟩
  intro ra s
  have hc : Completes s (.jump ra.byte) _ := .jump ra
  exact ⟨_, hc.exec_eq, State.setPc_pc s _, hc.frameRegs (by simp [Instr.mnemonic])⟩

theorem branchIf_taken {taken : Bool} (ra : Reg) (s : State) (h : taken = true) :
    (branchIf taken ra s).pc = s.reg ra := by
  rw [branchIf_eq, State.setPc_pc, if_pos h]

theorem branchIf_not_taken {taken : Bool} (ra : Reg) (s : State) (h : taken = false) :
    (branchIf taken ra s).pc.toNat = (s.pc.toNat + 2) % 256 := by
  rw [branchIf_eq, State.setPc_pc, if_neg (Bool.eq_false_iff.1 h)]
  exact BitVec.toNat_add s.pc 2#8

/-- Settles O20: the branch is on `E`. -/
theorem jeqBranchesOnEqual : Obligations.JeqBranchesOnEqual := by
  refine ⟨decode_opcode .jeq, ?completes,
    fun a s ha => takesInvalidRegister_of_badOperand s (badOperand_first rfl ha)⟩
  intro ra s
  have hc : Completes s (.jeq ra.byte) _ := .jeq ra
  exact ⟨_, hc.exec_eq, branchIf_taken ra s, branchIf_not_taken ra s, hc.frameRegs (by simp [Instr.mnemonic])⟩

/-- Settles O21: the branch is on the negation of `E`. -/
theorem jneBranchesOnNotEqual : Obligations.JneBranchesOnNotEqual := by
  refine ⟨decode_opcode .jne, ?completes,
    fun a s ha => takesInvalidRegister_of_badOperand s (badOperand_first rfl ha)⟩
  intro ra s
  have hc : Completes s (.jne ra.byte) _ := .jne ra
  exact ⟨_, hc.exec_eq, fun hE => branchIf_taken ra s (by rw [hE]; rfl),
    fun hE => branchIf_not_taken ra s (by rw [hE]; rfl), hc.frameRegs (by simp [Instr.mnemonic])⟩

end Sys2Proof.Machine
end

section
/-! Sequences of instructions (R81, R83 to R85, R87) and the end of a run (R57, R60). -/

namespace Sys2Proof.Machine

open Sys2Proof

variable {s t : State} {i : Instr}

/-! ### PUSH with POP, CALL with RET -/

theorem execAll_cons (h : exec i s = .next t) (rest : List Instr) : execAll (i :: rest) s = execAll rest t := by
  simp only [execAll, h]

/-- Settles O39: the POP finds the pushed byte at the stack pointer the PUSH left. -/
theorem pushThenPopRestoresTheStackPointer : Obligations.PushThenPopRestoresTheStackPointer := by
  intro ra rb s hwf hrb
  have sp_back : s.decSp.sp + 1#8 = s.sp := BitVec.sub_add_cancel s.sp 1#8
  have pushed : (pushReg ra (s.setPc (s.pc + 2#8))).memRead s.decSp.sp =
      if ra = .R7 then s.decSp.sp else s.reg ra := pushReg_memRead_sp (s := s.setPc (s.pc + 2#8)) hwf ra
  refine ⟨_, by rw [execAll_cons (exec_push s ra), execAll_cons (exec_pop _ rb)]; rfl, ?sp, ?value, ?others⟩
  case sp =>
    rw [State.sp_eq, popReg_reg, if_pos rfl, if_neg hrb]
    exact sp_back
  case value =>
    rw [popReg_reg, if_neg hrb, if_pos rfl]
    exact pushed
  case others =>
    intro q hq
    rw [popReg_reg, if_neg hrb]
    split
    · next hsp =>
      rw [hsp]
      exact sp_back
    · next hne =>
      rw [if_neg (by simpa using hq)]
      exact Regs.get_set_of_ne s.regs _ hne

/-- Settles O40: the RET finds the return address at the stack pointer the CALL left. -/
theorem callThenRetReturnsAfterTheCall : Obligations.CallThenRetReturnsAfterTheCall := by
  intro ra s t u hwf h hsp hread
  rw [exec_call] at h
  cases h
  refine ⟨_, exec_ret u, ?pc, ?sp⟩
  case pc =>
    rw [returnFromCall_pc, hread, callReg_sp, callReg_memRead_sp hwf]
    exact BitVec.toNat_add s.pc 2#8
  case sp =>
    rw [returnFromCall_sp, hsp, callReg_sp]
    exact BitVec.sub_add_cancel s.sp 1#8

/-- Any number of CALLs takes one byte of stack each. -/
theorem execAll_calls (rs : List Reg) (s : State) :
    ∃ t, execAll (rs.map (fun r => Instr.call r.byte)) s = .next t ∧ t.mode = s.mode ∧ t.fault = s.fault ∧
      (t.sp.toNat + rs.length) % 256 = s.sp.toNat % 256 := by
  induction rs generalizing s with
  | nil => exact ⟨s, rfl, rfl, rfl, rfl⟩
  | cons r rs ih =>
    obtain ⟨t, hexec, hmode, hfault, hsp⟩ := ih (callReg r s)
    refine ⟨t, ?_, hmode, hfault, ?_⟩
    · rw [List.map_cons, execAll_cons (exec_call s r), hexec]
    · rw [callReg_sp, decSp_sp_toNat] at hsp
      rw [List.length_cons]
      omega

/-- Settles O41: by induction on the CALLs; the two bounds are the arithmetic of one byte. -/
theorem nestedCallsTakeOneByteEach : Obligations.NestedCallsTakeOneByteEach := by
  intro rs s
  obtain ⟨t, hexec, hmode, hfault, hsp⟩ := execAll_calls rs s
  refine ⟨t, hexec, hmode, hfault, hsp, ?_⟩
  intro hreset
  have sp_lt : t.sp.toNat < 256 := t.sp.isLt
  rw [hreset] at hsp
  simp only [BitVec.toNat_ofNat] at hsp
  refine ⟨fun hlen => BitVec.eq_of_toNat_eq ?_, fun hlen => BitVec.eq_of_toNat_eq ?_⟩
  · show t.sp.toNat = 0
    omega
  · show t.sp.toNat = 255
    omega

/-! ### A JUMP to its own address -/

/-- A running state whose next instruction is a JUMP to its own address. -/
def State.JumpsToItself (s : State) (r : Reg) : Prop :=
  s.mode = .running ∧ s.nextInstr = .ok (.jump r.byte) ∧ s.reg r = s.pc

theorem jumpsToItself_of_sameArch {r : Reg} (h : s.JumpsToItself r) (hsame : SameArch s t) : t.JumpsToItself r := by
  obtain ⟨hm, hi, hreg⟩ := h
  refine ⟨?_, by rw [State.nextInstr_of_sameArch hsame, hi], ?_⟩
  · rw [eq_dropLatches_of_sameArch hsame]
    exact hm
  · rw [eq_dropLatches_of_sameArch hsame]
    exact hreg

theorem sameArch_afterStep_of_jumpsToItself {r : Reg} (h : s.JumpsToItself r) : SameArch s s.afterStep := by
  obtain ⟨hm, hi, hreg⟩ := h
  rw [State.afterStep_of_step (step_of_completes hm hi (.jump r)), hreg]
  exact SameArch.refl s

theorem runWhile_of_jumpsToItself {r : Reg} (fuel : Nat) (h : s.JumpsToItself r) :
    ∃ t, runWhile fuel s = (false, t) ∧ SameArch s t := by
  induction fuel generalizing s with
  | zero => exact ⟨s, by rw [runWhile_zero, (State.executes_eq_true s).2 h.1]; rfl, SameArch.refl s⟩
  | succ fuel ih =>
    have same : SameArch s s.afterStep := sameArch_afterStep_of_jumpsToItself h
    obtain ⟨t, hrun, hsame⟩ := ih (jumpsToItself_of_sameArch h same)
    exact ⟨t, by rw [runWhile_of_running h.1, hrun], same.trans hsame⟩

/-- Settles O42: by induction on the fuel, each step leaving the state as it was. -/
theorem jumpToItselfNeverEnds : Obligations.JumpToItselfNeverEnds := by
  intro s r fuel hm hop hoperand hreg
  have hi : s.nextInstr = .ok (.jump r.byte) := by
    rw [nextInstr_of_opcode (m := .jump) hop, hoperand]
    rfl
  exact runWhile_of_jumpsToItself fuel ⟨hm, hi, hreg⟩

/-! ### The end of a run -/

/-- A run ends exactly outside Running. -/
theorem runWhile_ended_iff (fuel : Nat) (s : State) :
    (runWhile fuel s).1 = true ↔ (runWhile fuel s).2.mode ≠ .running := by
  induction fuel generalizing s with
  | zero => rw [runWhile_zero, Bool.not_eq_true', ← Bool.not_eq_true, State.executes_eq_true]
  | succ fuel ih =>
    by_cases hm : s.mode = .running
    · rw [runWhile_of_running hm]
      exact ih s.afterStep
    · rw [runWhile_of_not_running hm]
      exact iff_of_true rfl hm

/-- More fuel changes no ended run. -/
theorem runWhile_add (fuel more : Nat) (s : State) (h : (runWhile fuel s).1 = true) :
    runWhile (fuel + more) s = runWhile fuel s := by
  induction fuel generalizing s with
  | zero =>
    have hm : s.mode ≠ .running := (runWhile_ended_iff 0 s).1 h
    rw [runWhile_of_not_running hm, runWhile_of_not_running hm]
  | succ fuel ih =>
    by_cases hm : s.mode = .running
    · rw [runWhile_of_running hm] at h ⊢
      rw [Nat.succ_add_eq_add_succ, Nat.add_succ, runWhile_of_running hm]
      exact ih s.afterStep h
    · rw [runWhile_of_not_running hm, runWhile_of_not_running hm]

/-- `k` steps of the machine lead from `s` to `t`, every state before `t` Running. -/
def RunsFor (k : Nat) (s t : State) : Prop :=
  Host.Core.run Sys2Proof.core k s = .next t ∧
    ∀ j, j < k → ∃ u : State, Host.Core.run Sys2Proof.core j s = .next u ∧ u.mode = .running

theorem RunsFor.zero (s : State) : RunsFor 0 s s := ⟨rfl, fun _ hj => absurd hj (Nat.not_lt_zero _)⟩

theorem RunsFor.succ {k : Nat} (hm : s.mode = .running) (h : RunsFor k s.afterStep t) : RunsFor (k + 1) s t := by
  obtain ⟨hrun, hbefore⟩ := h
  refine ⟨by rw [core_run_succ (step_afterStep s), hrun], ?_⟩
  intro j hj
  cases j with
  | zero => exact ⟨s, rfl, hm⟩
  | succ j =>
    rw [core_run_succ (step_afterStep s)]
    exact hbefore j (Nat.lt_of_succ_lt_succ hj)

/-- A run takes its steps from Running states, and fewer than its fuel only when it ends. -/
theorem runWhile_runsFor (fuel : Nat) (s : State) :
    ∃ k, k ≤ fuel ∧ RunsFor k s (runWhile fuel s).2 ∧ ((runWhile fuel s).1 = false → k = fuel) := by
  induction fuel generalizing s with
  | zero => exact ⟨0, Nat.le_refl 0, RunsFor.zero s, fun _ => rfl⟩
  | succ fuel ih =>
    by_cases hm : s.mode = .running
    · rw [runWhile_of_running hm]
      obtain ⟨k, hk, hruns, hall⟩ := ih s.afterStep
      exact ⟨k + 1, Nat.succ_le_succ hk, hruns.succ hm, fun hended => congrArg Nat.succ (hall hended)⟩
    · rw [runWhile_of_not_running hm]
      exact ⟨0, Nat.zero_le _, RunsFor.zero s, fun hended => by cases hended⟩

theorem not_running_iff_ended (s : State) :
    s.mode ≠ .running ↔ s.endedNormally = true ∨ s.endedAborted = true := by
  simp only [State.endedNormally, State.endedAborted, decide_eq_true_eq]
  cases s.mode <;> decide

/-- Settles O46: the facts about `runWhile` at the started state. -/
theorem runEndsExactlyOutsideRunning : Obligations.RunEndsExactlyOutsideRunning := by
  refine ⟨fun fuel s hm => run_of_not_halted hm fuel, ?_⟩
  intro fuel s hm
  obtain ⟨k, hk, ⟨hrun, hbefore⟩, hall⟩ := runWhile_runsFor fuel (s.setMode .running)
  refine ⟨_, _, run_of_halted hm fuel, ⟨k, hk, hrun, hbefore, hall⟩, ?ended, ?more⟩
  case ended => exact (runWhile_ended_iff fuel _).trans (not_running_iff_ended _)
  case more =>
    intro hended more
    have same : runWhile (fuel + more) (s.setMode .running) = runWhile fuel (s.setMode .running) :=
      runWhile_add fuel more _ hended
    calc transact (.run (fuel + more)) s
        = (.ran (runWhile (fuel + more) (s.setMode .running)).1, (runWhile (fuel + more) (s.setMode .running)).2) :=
          run_of_halted hm (fuel + more)
      _ = (.ran true, (runWhile fuel (s.setMode .running)).2) := by rw [same, hended]

end Sys2Proof.Machine
end

section
/-! The host transactions (R53 to R59, R98, R102, R103, R106 to R109). -/

namespace Sys2Proof.Machine

open Sys2Proof

variable {s t : State}

/-- Settles O1: the reset state's fields, whatever the state was. -/
theorem resetSetsEveryPieceOfState : Obligations.ResetSetsEveryPieceOfState := by
  intro s
  refine ⟨State.reset, rfl, ?regs, rfl, rfl, rfl, rfl, rfl, rfl, fun _ => rfl, rfl, SameArch.refl _⟩
  intro r hr
  cases r with
  | R7 => exact absurd rfl hr
  | _ => rfl

/-- Settles O43: HLT left mode Halted, in which start sets Running. -/
theorem startAfterHltResumes : Obligations.StartAfterHltResumes := by
  intro s t hm h
  rw [exec_hlt] at h
  cases h
  have started : start ((s.setPc (s.pc + 1#8)).setMode .halted) = (.accepted, _) := start_of_halted rfl
  exact ⟨_, started, rfl, BitVec.toNat_add s.pc 1#8, fun _ _ => rfl, rfl, fun _ => rfl, ⟨hm.symm, rfl⟩, rfl⟩

/-- The loaded bytes stand from address `n` on, and below it nothing changed. -/
theorem State.memRead_writeBytes (bytes : List Byte) {s : State} (hwf : s.mem.wf = true) {n : Nat}
    (hn : n + bytes.length ≤ 256) (c : Byte) :
    (s.writeBytes (BitVec.ofNat 8 n) bytes).memRead c =
      if c.toNat < n then s.memRead c else bytes.getD (c.toNat - n) (s.memRead c) := by
  induction bytes generalizing s n with
  | nil => simp [State.writeBytes]
  | cons v rest ih =>
    rw [List.length_cons] at hn
    have next_cell : BitVec.ofNat 8 n + 1#8 = BitVec.ofNat 8 (n + 1) := (BitVec.ofNat_add n 1).symm
    have cell : (BitVec.ofNat 8 n).toNat = n := Nat.mod_eq_of_lt (by omega)
    rw [State.writeBytes, next_cell, ih (Memory.write_wf hwf _ v) (by omega)]
    obtain hlt | heq | hgt := Nat.lt_trichotomy c.toNat n
    · have hne : c ≠ BitVec.ofNat 8 n := by rintro rfl; omega
      rw [if_pos (by omega), if_pos hlt, State.memRead_memWrite_of_ne s v hne]
    · have hc : c = BitVec.ofNat 8 n := BitVec.eq_of_toNat_eq (by omega)
      rw [if_pos (by omega), if_neg (by omega), hc, State.memRead_memWrite_self hwf, cell, Nat.sub_self,
        List.getD_cons_zero]
    · have hne : c ≠ BitVec.ofNat 8 n := by rintro rfl; omega
      have hsub : c.toNat - n = c.toNat - (n + 1) + 1 := by omega
      rw [if_neg (by omega), if_neg (by omega), State.memRead_memWrite_of_ne s v hne, hsub, List.getD_cons_succ]

/-- Settles O44: the load writes memory alone, from address 0. -/
theorem loadWritesTheProgramFromAddressZero : Obligations.LoadWritesTheProgramFromAddressZero := by
  intro bytes s hwf
  refine ⟨?accepted, fun h => load_refused h⟩
  intro hm hlen
  refine ⟨_, load_of_halted hm hlen, ?bytes, ?rest⟩
  case bytes =>
    intro c
    have hread := s.memRead_writeBytes bytes hwf (n := 0) (by omega) c
    rwa [if_neg (Nat.not_lt_zero _), Nat.sub_zero] at hread
  case rest =>
    obtain ⟨m, heq, _⟩ := s.writeBytes_eq bytes Config.loadBase
    rw [heq]
    exact ⟨rfl, rfl, rfl, ⟨rfl, rfl⟩, rfl⟩

/-- Settles O45: start by the mode, which is all it reads. -/
theorem startSetsRunningAndNothingElse : Obligations.StartSetsRunningAndNothingElse :=
  fun _ => ⟨start_of_halted, start_of_not_halted⟩

/-- Settles O47: load, start and run are refused outside Halted, and a step has no effect outside Running. -/
theorem onlyResetLeavesFaulted : Obligations.OnlyResetLeavesFaulted := by
  intro s hm
  have not_halted : s.mode ≠ .halted := by rw [hm]; decide
  have not_running : s.mode ≠ .running := by rw [hm]; decide
  have load_eq : ∀ bytes, load bytes s = (.refused, s) := fun bytes => load_refused (.inl not_halted)
  have start_eq : start s = (.refused, s) := start_of_not_halted not_halted
  have run_eq : ∀ fuel, run fuel s = (.refused, s) := run_of_not_halted not_halted
  refine ⟨?keeps, fun bytes => congrArg Prod.fst (load_eq bytes), congrArg Prod.fst start_eq,
    fun fuel => congrArg Prod.fst (run_eq fuel), rfl⟩
  intro r hr
  cases r with
  | reset => exact absurd rfl hr
  | load bytes => exact congrArg Prod.snd (load_eq bytes)
  | start => exact congrArg Prod.snd start_eq
  | step => exact State.afterStep_of_step (step_of_not_running not_running)
  | run fuel => exact congrArg Prod.snd (run_eq fuel)
  | status | trace | debugRead => rfl

/-- Settles O48: each port's view, with the wrap of the trace's addresses written out. -/
theorem readPortsReportTheState : Obligations.ReadPortsReportTheState := by
  intro s c
  refine ⟨rfl, ?trace, rfl⟩
  rw [ofNat_add_mod, ofNat_add_mod]
  rfl

/-- Settles O52: every step answers a next state, so the transaction never falls back. -/
theorem stepTransactionIsTheStep : Obligations.StepTransactionIsTheStep :=
  fun s => ⟨s.afterStep, step_afterStep s, rfl⟩

end Sys2Proof.Machine
end
